-- ==== Sys2Proof/Word.lean ====
section
/-! DEFINITION. The word types (R7, R9): bit 0 is the least significant bit, and an `f32` is a 32-bit pattern. -/

namespace Sys2Proof

/-- A byte of the wire buffer (R60). -/
abbrev Byte := BitVec 8

/-- A 32-bit register value or `f32` pattern (R9, R20). -/
abbrev Word := BitVec 32

/-- A 2-bit ternary code (R98, R140). -/
abbrev Code2 := BitVec 2

end Sys2Proof
end

