-- ==== Sys2Proof/Syntax.lean ====
section
/-! DEFINITION. The command set `ATC-CMD v1` (R81): one constructor per row of the opcode table. A command has no
operand field (R80): every operand is a fixed register or the wire buffer (R83). -/

namespace Sys2Proof

/-- The six commands of R81. -/
inductive Instr where
  /-- R214, word 0x00000000. -/
  | nop
  /-- R167, word 0x00000001. -/
  | encode
  /-- R197, word 0x00000002. -/
  | decode
  /-- R125, word 0x00000003. -/
  | classify
  /-- R144, word 0x00000004. -/
  | pack
  /-- R145, word 0x00000005. -/
  | unpack
deriving DecidableEq, Repr

end Sys2Proof
end

