-- ==== Sys2Proof/WellFormed.lean ====
section
/-! DEFINITION. Well-formedness. The command word has two fields (R80), each with one check: RSV is 0, and OP is one of
the six opcodes of R81. A term of `Instr` carries no operand, so each constructor is well-formed as it stands. -/

namespace Sys2Proof

/-- The two fields of a command word (R80). -/
structure CommandWord where
  /-- Bits 31:8, reserved. -/
  rsv : BitVec 24
  /-- Bits 7:0, the opcode. -/
  op : BitVec 8
deriving DecidableEq, Repr

/-- R80: RSV must be 0. -/
def CommandWord.rsvZero (c : CommandWord) : Bool := c.rsv == 0#24

/-- R81: OP is 0x00 to 0x05; 0x06 to 0xFF are reserved. -/
def CommandWord.opAssigned (c : CommandWord) : Bool := c.op.toNat ≤ 0x05

/-- R81: a word selects a command when both checks pass. -/
def CommandWord.wellFormed (c : CommandWord) : Bool := c.rsvZero && c.opAssigned

/-- R80, R83: a command has no operand field, so no term of `Instr` is ill-formed. -/
def Instr.wellFormed : Instr → Bool
  | .nop => true
  | .encode => true
  | .decode => true
  | .classify => true
  | .pack => true
  | .unpack => true

end Sys2Proof
end

