-- ==== Sys2Proof/Decode.lean ====
section
/-! DEFINITION. The decoder of command words and, after it, the encoder (R80 to R82). The decoder is total on all 2^32
words and rejects by name; every rejected word is an illegal word of R82. -/

namespace Sys2Proof

/-- Why a word selects no command (R82). -/
inductive DecodeError where
  /-- Bits 31:8 are not all 0 (R80). -/
  | reservedBits
  /-- Bits 31:8 are 0 and OP is 0x06 to 0xFF (R81). -/
  | reservedOpcode
deriving DecidableEq, Repr

/-- The fields of a command word (R80). -/
def splitWord (w : Word) : CommandWord := ⟨w.extractLsb' 8 24, w.extractLsb' 0 8⟩

/-- The opcode map of R81. -/
def opcodeMap (op : BitVec 8) : Option Instr :=
  match op.toNat with
  | 0x00 => some .nop
  | 0x01 => some .encode
  | 0x02 => some .decode
  | 0x03 => some .classify
  | 0x04 => some .pack
  | 0x05 => some .unpack
  | _ => none

/-- The command a word selects, or the name of what is wrong with it (R81, R82). -/
def decode (w : Word) : Except DecodeError Instr :=
  let c := splitWord w
  if c.rsvZero then
    match opcodeMap c.op with
    | some i => .ok i
    | none => .error .reservedOpcode
  else .error .reservedBits

/-- The opcode of a command (R81). -/
def opcode : Instr → BitVec 8
  | .nop => 0x00#8
  | .encode => 0x01#8
  | .decode => 0x02#8
  | .classify => 0x03#8
  | .pack => 0x04#8
  | .unpack => 0x05#8

/-- The command word of a command: RSV zero, OP its opcode (R80, R81). -/
def encode (i : Instr) : Word := 0#24 ++ opcode i

/-- The 32-bit word that the opcode table's numbering gives: a command word is one 32-bit word written whole to CMD
(R80), so bit k of `w` is bit k of the word, and bits at and above `nbits` are 0 (log 14). -/
def tableWord (nbits w : Nat) : Word := BitVec.ofNat 32 (w % 2 ^ nbits)

/-- What the decoder reads from the word of an opcode-table row. -/
def decodeTableWord (nbits w : Nat) : Option Instr :=
  match decode (tableWord nbits w) with
  | .ok i => some i
  | .error _ => none

end Sys2Proof
end

