-- ==== Sys2Proof/Config.lean ====
section
/-! DEFINITION. What an implementation fixes, and the free values (R5, R6, R251, R270). The `OPEN` parameters of R5 are
opaque constants: Lean can prove no value of them, so what is proved of the machine holds for every choice. Functions of
the model take the whole set as an argument of type `Params`; the machine runs with `Config.hw`. -/

namespace Sys2Proof

/-- One choice of every open parameter and free value. -/
structure Params where
  /-- How far `BUF_BYTES` lies above its least value 25 (R5). -/
  bufExtra : Fin 65512
  /-- `SIN32` (R5): total and deterministic, nothing else is assumed (R6). -/
  sin32 : Word → Word
  /-- `COS32` (R5). -/
  cos32 : Word → Word
  /-- `ASIN32` (R5). -/
  asin32 : Word → Word
  /-- `ATAN2_32` (R5), first argument y. -/
  atan2_32 : Word → Word → Word
  /-- The n-th accepted command's latency beyond its least value of one step (R5 `LAT`, R212, R270; log 2). -/
  lat : Nat → Nat
  /-- What buffer byte i reads as after reset number g until something writes it (R251; log 4). -/
  resetByte : Nat → Nat → Byte
  /-- Whether the zero that a negative nonzero real rounds to has the pattern 0x80000000 (R10 leaves it open; log 5). -/
  negZero : Rat → Bool

/-- `BUF_BYTES`: an integer with 25 <= `BUF_BYTES` <= 65536 (R5). -/
def Params.bufBytes (p : Params) : Nat := 25 + p.bufExtra.val

namespace Config

/-- R5 `BUF_BYTES`, open: the excess over 25. -/
opaque bufExtra : Fin 65512
/-- R5 `SIN32`, open. -/
opaque sin32 : Word → Word
/-- R5 `COS32`, open. -/
opaque cos32 : Word → Word
/-- R5 `ASIN32`, open. -/
opaque asin32 : Word → Word
/-- R5 `ATAN2_32`, open. -/
opaque atan2_32 : Word → Word → Word
/-- R5 `LAT`, open per command and per execution. -/
opaque lat : Nat → Nat
/-- R251: the unspecified buffer contents after each reset. -/
opaque resetByte : Nat → Nat → Byte
/-- R10: the sign of a zero rounded from a negative nonzero real. DESIGN CHOICE (log 5): free. -/
opaque negZero : Rat → Bool

/-- The parameters of the machine. -/
def hw : Params := ⟨bufExtra, sin32, cos32, asin32, atan2_32, lat, resetByte, negZero⟩

end Config

/-- `EPS`, the one classification threshold, fixed (R5, R11). -/
def EPS : Word := 0x3727C5AC#32
/-- 1.0 (R11). -/
def ONE : Word := 0x3F800000#32
/-- -1.0 (R11). -/
def MONE : Word := 0xBF800000#32
/-- +0.0 (R11). -/
def PZERO : Word := 0x00000000#32
/-- The binary32 value nearest to pi/2 (R11). -/
def HALFPI32 : Word := 0x3FC90FDB#32
/-- The canonical quiet NaN (R11). -/
def CNAN : Word := 0x7FC00000#32

end Sys2Proof
end

