-- ==== Sys2Proof/Machine/State.lean ====
section
/-! DEFINITION. The machine's state (R45), the host's accesses, the reasons a step can stop, and the state after reset. -/

namespace Sys2Proof.Machine

/-- Three f32 values: a position (R12) or an Euler triple (R110). -/
structure Vec3 where
  x : Word
  y : Word
  z : Word
deriving DecidableEq, Repr

/-- A rotation matrix of nine f32 values, `mrc` in row r and column c (R12). -/
structure Mat3 where
  m00 : Word
  m01 : Word
  m02 : Word
  m10 : Word
  m11 : Word
  m12 : Word
  m20 : Word
  m21 : Word
  m22 : Word
deriving DecidableEq, Repr

/-- The wire buffer's written bytes (R41): addresses strictly rising, no entry equal to the draw that an unlisted byte
reads as (`Memory.wf`). -/
abbrev Memory := List Host.Cell

/-- The names of the register map (R20). -/
inductive Reg where
  | id
  | bufsz
  | ctrl
  | status
  | cmd
  | wrPtr
  | cursor
  | len
  | tag
  | clsKind
  | clsAxis
  | clsAngle
  | clsEulerX
  | clsEulerY
  | clsEulerZ
  | codes
  | packed
  | inPosX
  | inPosY
  | inPosZ
  | inRot (r c : Fin 3)
  | outPosX
  | outPosY
  | outPosZ
  | outRot (r c : Fin 3)
deriving DecidableEq, Repr

/-- The access codes of R20. -/
inductive Access where
  /-- read-only, host writes ignored -/
  | ro
  /-- read-write by the host -/
  | rw
  /-- write-only, reads return 0 -/
  | wo
  /-- STATUS: bits the host clears by writing 1 -/
  | w1c
deriving DecidableEq, Repr

/-- One action of the outside world. `bytes` is the access width in bytes; the bus accepts 1, 2 and 4 (R62 to R64).
Offsets are the 17-bit byte offsets of the host space (R60). -/
inductive HostEvent where
  /-- A bus read. -/
  | read (bytes : Nat) (off : BitVec 17)
  /-- A bus write; a narrow write's data is the low bits of `data` (log 8). -/
  | write (bytes : Nat) (off : BitVec 17) (data : Word)
  /-- One round of the poll loop of `WAIT` (R86): a read of STATUS, repeated while BUSY reads 1 (log 12). -/
  | poll
  /-- The reset input is asserted (R250). -/
  | resetAssert
  /-- The reset input is released (R250). -/
  | resetRelease
deriving DecidableEq, Repr

/-- Why the machine could stop with a fault: never. "Every accepted command completes: none can hang, and no input makes
the block stop" (R212). The block's own events are STATUS bits, not stops (R220, R226). -/
inductive Fault where
deriving DecidableEq, Repr

/-- Why a step has no meaning. -/
inductive Refusal where
  /-- Raised by `exec` for an instruction without a meaning; no arm raises it now. Safe. -/
  | notModelled (mnemonic : String)
  /-- Raised by the bus for an access it does not accept: wrong width or alignment (R64: "a model gives such an access no
  meaning (the host's step is refused)"). Safe. -/
  | busError
  /-- Raised by the bus for an access R260 forbids while BUSY = 1 ("a model refuses such an access"). Safe. -/
  | busyAccess
  /-- Raised by the bus for an access while reset is asserted (R250: "no defined response"; S6: refuse). Safe. -/
  | accessInReset
deriving DecidableEq, Repr

/-- The architectural state of R45, and the model's own fields at the end. ID and BUFSZ are constants of the
configuration, CMD holds no state (R25), BUSY is a view of `inflight` (R43; log 7) and IRQ follows `ie` and `done`
(R44). -/
structure State where
  /-- CTRL.IE (R23). -/
  ie : Bool
  /-- STATUS.DONE (R24). -/
  done : Bool
  /-- STATUS.ILLEGAL (R24). -/
  illegal : Bool
  /-- STATUS.BOUNDS (R24). -/
  bounds : Bool
  /-- STATUS.MALFORMED (R24). -/
  malformed : Bool
  /-- WR_PTR (R26). -/
  wrPtr : Word
  /-- CURSOR (R27). -/
  cursor : Word
  /-- LEN bits 7:0 (R28). -/
  len : BitVec 8
  /-- TAG bits 7:0 (R29). -/
  tag : BitVec 8
  /-- CLS_KIND bits 1:0 (R30). -/
  clsKind : BitVec 2
  /-- CLS_AXIS bits 1:0 (R31). -/
  clsAxis : BitVec 2
  /-- CLS_ANGLE (R32). -/
  clsAngle : Word
  /-- CLS_EULER_X, CLS_EULER_Y, CLS_EULER_Z (R33). -/
  clsEuler : Vec3
  /-- CODES bits 17:0 (R34). -/
  codes : BitVec 18
  /-- PACKED bits 23:0 (R35). -/
  packed : BitVec 24
  /-- IN_POS_X, IN_POS_Y, IN_POS_Z (R36). -/
  inPos : Vec3
  /-- IN_ROT_rc (R37). -/
  inRot : Mat3
  /-- OUT_POS_X, OUT_POS_Y, OUT_POS_Z (R38). -/
  outPos : Vec3
  /-- OUT_ROT_rc (R39). -/
  outRot : Mat3
  /-- The written bytes of the wire buffer (R41). -/
  buf : Memory
  /-- INFLIGHT (R43): none, or the accepted command not yet completed. -/
  inflight : Option Instr
  /-- The level of the reset input (R250). -/
  resetAsserted : Bool
  /-- The model's own: how many resets have been released; selects the draws of R251 (log 4). -/
  gen : Nat
  /-- The model's own: how many commands have been accepted; selects the latency of R212 (log 2). -/
  accepted : Nat
  /-- The model's own: steps left before the in-flight command may complete (log 2). -/
  wait : Nat
  /-- The model's own: the outside world's pending actions, oldest first (log 1). -/
  host : List HostEvent
  /-- The model's own: what the last host read returned (log 8). -/
  busData : Option Word
deriving DecidableEq, Repr

/-- The zero vector: the reset value of the three-register groups (R33, R36, R38). -/
def Vec3.zero : Vec3 := ⟨PZERO, PZERO, PZERO⟩

/-- The zero matrix: the reset value of IN_ROT and OUT_ROT (R37, R39), not the identity (R253). -/
def Mat3.zero : Mat3 := ⟨PZERO, PZERO, PZERO, PZERO, PZERO, PZERO, PZERO, PZERO, PZERO⟩

/-- The machine when reset is released (R250 to R252): every register 0 but the constants ID and BUFSZ, no command in
flight, IRQ low, no buffer byte written, nothing pending from the host. -/
def State.reset : State where
  ie := false
  done := false
  illegal := false
  bounds := false
  malformed := false
  wrPtr := 0#32
  cursor := 0#32
  len := 0#8
  tag := 0#8
  clsKind := 0#2
  clsAxis := 0#2
  clsAngle := PZERO
  clsEuler := Vec3.zero
  codes := 0#18
  packed := 0#24
  inPos := Vec3.zero
  inRot := Mat3.zero
  outPos := Vec3.zero
  outRot := Mat3.zero
  buf := []
  inflight := none
  resetAsserted := false
  gen := 0
  accepted := 0
  wait := 0
  host := []
  busData := none

end Sys2Proof.Machine
end

