-- ==== Sys2Proof/Machine/Operands.lean ====
section
/-! DEFINITION. The operand forms of the commands (R83): nine ternary codes in CODES (R34), three bytes in PACKED (R35),
the encoding kinds (R90), f32 values as bytes (R65). -/

namespace Sys2Proof.Machine

/-- The encoding kinds (R90). -/
inductive EncodingKind where
  | euler
  | identity
  | axisAligned
  | singleAxis
deriving DecidableEq, Repr

/-- The wire constant of a kind (R90): Euler 0, Identity 1, AxisAligned 2, SingleAxis 3. -/
def kindCode : EncodingKind → BitVec 2
  | .euler => 0#2
  | .identity => 1#2
  | .axisAligned => 2#2
  | .singleAxis => 3#2

/-- The tag byte of a kind (R90, R161). -/
def tagByte (k : EncodingKind) : Byte := (kindCode k).zeroExtend 8

/-- Nine 2-bit codes c1 .. c9 (R98). -/
structure Codes where
  c1 : Code2
  c2 : Code2
  c3 : Code2
  c4 : Code2
  c5 : Code2
  c6 : Code2
  c7 : Code2
  c8 : Code2
  c9 : Code2
deriving DecidableEq, Repr

/-- CODES from nine codes: code k in bits 2k-1:2k-2 (R34, R123). -/
def codesToBits (c : Codes) : BitVec 18 :=
  c.c9 ++ c.c8 ++ c.c7 ++ c.c6 ++ c.c5 ++ c.c4 ++ c.c3 ++ c.c2 ++ c.c1

/-- The nine codes in CODES: code k is `CODES[2k-1 : 2k-2]` (R34, R144). -/
def codesOfBits (v : BitVec 18) : Codes where
  c1 := v.extractLsb' 0 2
  c2 := v.extractLsb' 2 2
  c3 := v.extractLsb' 4 2
  c4 := v.extractLsb' 6 2
  c5 := v.extractLsb' 8 2
  c6 := v.extractLsb' 10 2
  c7 := v.extractLsb' 12 2
  c8 := v.extractLsb' 14 2
  c9 := v.extractLsb' 16 2

/-- Three packed bytes in wire order (R98). -/
structure Packed where
  b1 : Byte
  b2 : Byte
  b3 : Byte
deriving DecidableEq, Repr

/-- PACKED from three bytes: byte 1 in bits 7:0 (R35, R144). -/
def packedToBits (b : Packed) : BitVec 24 := b.b3 ++ b.b2 ++ b.b1

/-- The three bytes in PACKED (R35, R145). -/
def packedOfBits (v : BitVec 24) : Packed where
  b1 := v.extractLsb' 0 8
  b2 := v.extractLsb' 8 8
  b3 := v.extractLsb' 16 8

/-- `LE(v)` (R161, R65): the four bytes of v, bits 7:0 first. -/
def leBytes (v : Word) : List Byte :=
  [v.extractLsb' 0 8, v.extractLsb' 8 8, v.extractLsb' 16 8, v.extractLsb' 24 8]

/-- The little-endian value of four bytes, the lowest index first (R8, R65). -/
def leWord (b0 b1 b2 b3 : Byte) : Word := b3 ++ b2 ++ b1 ++ b0

/-- The entries of a matrix, row by row (R12, R99). -/
def Mat3.entries (m : Mat3) : List Word :=
  [m.m00, m.m01, m.m02, m.m10, m.m11, m.m12, m.m20, m.m21, m.m22]

/-- Entry (r, c) of a matrix (R12). -/
def Mat3.get (m : Mat3) : Fin 3 → Fin 3 → Word
  | 0, 0 => m.m00
  | 0, 1 => m.m01
  | 0, 2 => m.m02
  | 1, 0 => m.m10
  | 1, 1 => m.m11
  | 1, 2 => m.m12
  | 2, 0 => m.m20
  | 2, 1 => m.m21
  | 2, 2 => m.m22

/-- The matrix with entry (r, c) replaced (R37). -/
def Mat3.set (m : Mat3) (v : Word) : Fin 3 → Fin 3 → Mat3
  | 0, 0 => { m with m00 := v }
  | 0, 1 => { m with m01 := v }
  | 0, 2 => { m with m02 := v }
  | 1, 0 => { m with m10 := v }
  | 1, 1 => { m with m11 := v }
  | 1, 2 => { m with m12 := v }
  | 2, 0 => { m with m20 := v }
  | 2, 1 => { m with m21 := v }
  | 2, 2 => { m with m22 := v }

end Sys2Proof.Machine
end

