-- ==== Sys2Proof/Machine/Ops.lean ====
section
/-! DEFINITION. The named operations over the wire buffer (R8, R41, R251) and the completion of a command with its
fault (R212, R222): what this hardware has in place of taking an exception (R226). The acknowledgement that stands in
place of a return (R227) is `ackStatus` of Flags.lean. -/

namespace Sys2Proof.Machine

/-- The byte listed at index i, if any. -/
def Memory.find : Memory → Nat → Option Byte
  | [], _ => none
  | (a, b) :: m, i => if a = i then some b else Memory.find m i

/-- The buffer without an entry at index i. -/
def Memory.remove : Memory → Nat → Memory
  | [], _ => []
  | (a, b) :: m, i => if a = i then Memory.remove m i else (a, b) :: Memory.remove m i

/-- The buffer with the entry (i, v), in its place by address. -/
def Memory.insert : Memory → Nat → Byte → Memory
  | [], i, v => [(i, v)]
  | (a, b) :: m, i, v =>
    if i < a then (i, v) :: (a, b) :: m
    else if a = i then (i, v) :: m
    else (a, b) :: Memory.insert m i v

/-- What index i reads as where `draw` gives the unlisted bytes (R251). -/
def Memory.read (draw : Nat → Byte) (m : Memory) (i : Nat) : Byte := (Memory.find m i).getD (draw i)

/-- One byte written; writing the draw itself leaves no entry, so equal buffers are equal lists. -/
def Memory.write (draw : Nat → Byte) (m : Memory) (i : Nat) (v : Byte) : Memory :=
  if v = draw i then Memory.remove m i else Memory.insert m i v

/-- Consecutive bytes written from index a on (R165). -/
def Memory.writeList (draw : Nat → Byte) (m : Memory) (a : Nat) : List Byte → Memory
  | [] => m
  | v :: vs => Memory.writeList draw (Memory.write draw m a v) (a + 1) vs

/-- The canonical form: addresses strictly rising from `lo` on and below `size`, no entry equal to its draw. -/
def Memory.wfFrom (draw : Nat → Byte) (size lo : Nat) : Memory → Bool
  | [] => true
  | (a, b) :: m => decide (lo ≤ a) && decide (a < size) && decide (b ≠ draw a) && Memory.wfFrom draw size (a + 1) m

/-- The buffer's canonical form under parameters p after reset number g. -/
def Memory.wf (p : Params) (g : Nat) (m : Memory) : Bool := Memory.wfFrom (p.resetByte g) p.bufBytes 0 m

/-- `B[i]` (R8, R41). -/
def readByte (p : Params) (s : State) (i : Nat) : Byte := Memory.read (p.resetByte s.gen) s.buf i

/-- `MemRead(a, 4)` (R8): little-endian, any alignment (R65, R66). -/
def readWord (p : Params) (s : State) (a : Nat) : Word :=
  leWord (readByte p s a) (readByte p s (a + 1)) (readByte p s (a + 2)) (readByte p s (a + 3))

/-- `B[i] <- v` (R8). -/
def writeByte (p : Params) (s : State) (i : Nat) (v : Byte) : State :=
  { s with buf := Memory.write (p.resetByte s.gen) s.buf i v }

/-- Consecutive buffer bytes from index a on (R165). -/
def writeBytes (p : Params) (s : State) (a : Nat) (l : List Byte) : State :=
  { s with buf := Memory.writeList (p.resetByte s.gen) s.buf a l }

/-- What a command's rule ends in: the state with its effects, or `raise BOUNDS` (R8, R222). -/
inductive CmdResult where
  | finished (s : State)
  | raisedBounds
deriving DecidableEq, Repr

/-- Completion of a command whose rule was performed on s (R212). A raised fault undoes every register and buffer write of
the rule and sets only its STATUS bit (R222); either way DONE is set and nothing is in flight any more. -/
def complete (s : State) : CmdResult → State
  | .finished t => { t with done := true, inflight := none }
  | .raisedBounds => { s with bounds := true, done := true, inflight := none }

/-- `if index + n > BUF_BYTES: raise BOUNDS` before the rest of a rule (R164, R190, R191): the sum is unbounded (R14). -/
def boundsCheck (p : Params) (index n : Nat) (rest : CmdResult) : CmdResult :=
  if index + n > p.bufBytes then .raisedBounds else rest

end Sys2Proof.Machine
end

