-- ==== Sys2Proof/Machine/Control.lean ====
section
/-! DEFINITION. Command acceptance and the NOP command (44_control.md), and whose turn it is: the command engine's or the
host's (R212, R265, R270). -/

namespace Sys2Proof.Machine

/-- The rule of NOP (R214): no effect. -/
def nopRule (s : State) : CmdResult := .finished s

/-- NOP (R214): accepted and completed like every command (R212). -/
def execNop (s : State) : Host.Outcome State Fault Refusal := .next (complete s (nopRule s))

/-- Acceptance of a command (R211): INFLIGHT is set and nothing else of the spec's state. The command's latency is drawn
here (R5 `LAT`; log 2). -/
def acceptCommand (p : Params) (s : State) (i : Instr) : State :=
  { s with inflight := some i, wait := p.lat s.accepted, accepted := s.accepted + 1 }

/-- A host write of w to CMD (R210): dropped with ILLEGAL while a command is in flight (R213); accepted if w selects a
command (R211); else ILLEGAL and DONE at once (R215). -/
def writeCmd (p : Params) (s : State) (w : Word) : State :=
  if s.inflight.isSome then { s with illegal := true }
  else
    match decode w with
    | .ok i => acceptCommand p s i
    | .error _ => { s with illegal := true, done := true }

/-- Who moves next. -/
inductive Turn where
  /-- The in-flight command completes. -/
  | engine (i : Instr)
  /-- The outside world acts on this state. -/
  | host (s : State)
deriving DecidableEq, Repr

/-- The turn (R212, R265; log 2): an in-flight command with no step left completes; with steps left, the host moves
and one step is used up; with nothing in flight, or in reset (R250), the host moves. -/
def turn (s : State) : Turn :=
  if s.resetAsserted then .host s
  else
    match s.inflight with
    | none => .host s
    | some i => if s.wait = 0 then .engine i else .host { s with wait := s.wait - 1 }

end Sys2Proof.Machine
end

