-- ==== Sys2Proof/Machine/Flags.lean ====
section
/-! DEFINITION. STATUS, its write-one-to-clear, and IRQ (R24, R43, R44, R230). -/

namespace Sys2Proof.Machine

/-- STATUS.BUSY reads 1 exactly while a command is in flight (R43). -/
def State.busy (s : State) : Bool := s.inflight.isSome

/-- STATUS as a register (R24): bits 0 to 4 are BUSY, DONE, ILLEGAL, BOUNDS, MALFORMED; bits 31:5 read 0. -/
def statusWord (s : State) : Word :=
  0#27 ++ BitVec.ofBool s.malformed ++ BitVec.ofBool s.bounds ++ BitVec.ofBool s.illegal ++ BitVec.ofBool s.done
    ++ BitVec.ofBool s.busy

/-- A host write of v to STATUS (R24): clears each of bits 1 to 4 whose bit in v is 1, leaves the others; bit 0 has no
effect. This is how the host acknowledges an event (R227): the block has no return from a trap. -/
def ackStatus (s : State) (v : Word) : State :=
  { s with
    done := s.done && !v.getLsbD 1
    illegal := s.illegal && !v.getLsbD 2
    bounds := s.bounds && !v.getLsbD 3
    malformed := s.malformed && !v.getLsbD 4 }

/-- The IRQ output (R44, R230): the level CTRL.IE AND STATUS.DONE. -/
def irq (s : State) : Bool := s.ie && s.done

/-- CTRL as a register (R23): bit 0 is IE, bits 31:1 read 0. -/
def ctrlWord (s : State) : Word := 0#31 ++ BitVec.ofBool s.ie

end Sys2Proof.Machine
end

