-- ==== Sys2Proof/Machine/Bus.lean ====
section
/-! DEFINITION. The host register bus (R20 to R40, R60 to R64), the access contract while BUSY (R260), the reset input
(R250, R251) and the host's turn. -/

namespace Sys2Proof.Machine

/-- The offset of a register (R20). -/
def Reg.offset : Reg → Nat
  | .id => 0x00
  | .bufsz => 0x04
  | .ctrl => 0x08
  | .status => 0x0C
  | .cmd => 0x10
  | .wrPtr => 0x14
  | .cursor => 0x18
  | .len => 0x1C
  | .tag => 0x20
  | .clsKind => 0x24
  | .clsAxis => 0x28
  | .clsAngle => 0x2C
  | .clsEulerX => 0x30
  | .clsEulerY => 0x34
  | .clsEulerZ => 0x38
  | .codes => 0x3C
  | .packed => 0x40
  | .inPosX => 0x50
  | .inPosY => 0x54
  | .inPosZ => 0x58
  | .inRot r c => 0x60 + 4 * (3 * r.val + c.val)
  | .outPosX => 0x90
  | .outPosY => 0x94
  | .outPosZ => 0x98
  | .outRot r c => 0xA0 + 4 * (3 * r.val + c.val)

/-- The access code of a register (R20). -/
def Reg.access : Reg → Access
  | .id => .ro
  | .bufsz => .ro
  | .ctrl => .rw
  | .status => .w1c
  | .cmd => .wo
  | .wrPtr => .rw
  | .cursor => .rw
  | .len => .ro
  | .tag => .ro
  | .clsKind => .ro
  | .clsAxis => .ro
  | .clsAngle => .ro
  | .clsEulerX => .ro
  | .clsEulerY => .ro
  | .clsEulerZ => .ro
  | .codes => .rw
  | .packed => .rw
  | .inPosX => .rw
  | .inPosY => .rw
  | .inPosZ => .rw
  | .inRot _ _ => .rw
  | .outPosX => .ro
  | .outPosY => .ro
  | .outPosZ => .ro
  | .outRot _ _ => .ro

/-- Every register of the map (R20). -/
def allRegs : List Reg :=
  [.id, .bufsz, .ctrl, .status, .cmd, .wrPtr, .cursor, .len, .tag, .clsKind, .clsAxis, .clsAngle, .clsEulerX,
   .clsEulerY, .clsEulerZ, .codes, .packed, .inPosX, .inPosY, .inPosZ,
   .inRot 0 0, .inRot 0 1, .inRot 0 2, .inRot 1 0, .inRot 1 1, .inRot 1 2, .inRot 2 0, .inRot 2 1, .inRot 2 2,
   .outPosX, .outPosY, .outPosZ,
   .outRot 0 0, .outRot 0 1, .outRot 0 2, .outRot 1 0, .outRot 1 1, .outRot 1 2, .outRot 2 0, .outRot 2 1,
   .outRot 2 2]

/-- The register at an offset of the register window; none where the offset is reserved (R40). -/
def regAt (off : Nat) : Option Reg := allRegs.find? (fun r => r.offset == off)

/-- What a host read of a register returns, reserved bits 0 (R21 to R39, R40). -/
def readReg (p : Params) (s : State) : Reg → Word
  | .id => 0x41544301#32
  | .bufsz => BitVec.ofNat 32 p.bufBytes
  | .ctrl => ctrlWord s
  | .status => statusWord s
  | .cmd => 0#32
  | .wrPtr => s.wrPtr
  | .cursor => s.cursor
  | .len => s.len.zeroExtend 32
  | .tag => s.tag.zeroExtend 32
  | .clsKind => s.clsKind.zeroExtend 32
  | .clsAxis => s.clsAxis.zeroExtend 32
  | .clsAngle => s.clsAngle
  | .clsEulerX => s.clsEuler.x
  | .clsEulerY => s.clsEuler.y
  | .clsEulerZ => s.clsEuler.z
  | .codes => s.codes.zeroExtend 32
  | .packed => s.packed.zeroExtend 32
  | .inPosX => s.inPos.x
  | .inPosY => s.inPos.y
  | .inPosZ => s.inPos.z
  | .inRot r c => s.inRot.get r c
  | .outPosX => s.outPos.x
  | .outPosY => s.outPos.y
  | .outPosZ => s.outPos.z
  | .outRot r c => s.outRot.get r c

/-- A host write to a register with access code RW: the bits in use are stored (R23, R26, R27, R34 to R37). The other
registers store nothing. -/
def storeReg (s : State) (v : Word) : Reg → State
  | .ctrl => { s with ie := v.getLsbD 0 }
  | .wrPtr => { s with wrPtr := v }
  | .cursor => { s with cursor := v }
  | .codes => { s with codes := v.extractLsb' 0 18 }
  | .packed => { s with packed := v.extractLsb' 0 24 }
  | .inPosX => { s with inPos := { s.inPos with x := v } }
  | .inPosY => { s with inPos := { s.inPos with y := v } }
  | .inPosZ => { s with inPos := { s.inPos with z := v } }
  | .inRot r c => { s with inRot := s.inRot.set v r c }
  | .id => s
  | .bufsz => s
  | .status => s
  | .cmd => s
  | .len => s
  | .tag => s
  | .clsKind => s
  | .clsAxis => s
  | .clsAngle => s
  | .clsEulerX => s
  | .clsEulerY => s
  | .clsEulerZ => s
  | .outPosX => s
  | .outPosY => s
  | .outPosZ => s
  | .outRot _ _ => s

/-- A host write to a register applies its access code (R20, R63). -/
def writeReg (p : Params) (s : State) (r : Reg) (v : Word) : State :=
  match r.access with
  | .ro => s
  | .rw => storeReg s v r
  | .wo => writeCmd p s v
  | .w1c => ackStatus s v

/-- The registers the host may access while BUSY = 1 (R260). -/
def busyAllowed : Reg → Bool
  | .id | .bufsz | .ctrl | .status | .cmd => true
  | _ => false

/-- Where a host offset lies (R61). -/
inductive Place where
  /-- a register of R20 -/
  | reg (r : Reg)
  /-- a reserved offset of the register window (R40) -/
  | reserved
  /-- at least one byte of the access is `B[i]`, i the index of its first byte -/
  | buffer (i : Nat)
  /-- every byte of the access is above the buffer -/
  | unbacked
deriving DecidableEq, Repr

/-- The place of an accepted access at offset `off` (R61). The first byte of an access decides: it is the lowest, so if
it is unbacked all are (R62). -/
def placeOf (p : Params) (off : Nat) : Place :=
  if off < 0x10000 then
    match regAt off with
    | some r => .reg r
    | none => .reserved
  else if off < 0x10000 + p.bufBytes then .buffer (off - 0x10000)
  else .unbacked

/-- Whether the bus accepts an access (R62 to R64): 32 bits at a multiple of 4 anywhere; 8 bits, and 16 bits at an even
offset, outside the register window. -/
def busAccepts (bytes off : Nat) : Bool :=
  (bytes == 4 && off % 4 == 0)
    || (bytes == 2 && off % 2 == 0 && decide (0x10000 ≤ off))
    || (bytes == 1 && decide (0x10000 ≤ off))

/-- Whether R260 allows an access while BUSY = 1. Reserved and unbacked offsets are no register and no part of the
buffer window (R40, R61; log 9). -/
def placeAllowedBusy : Place → Bool
  | .reg r => busyAllowed r
  | .reserved => true
  | .buffer _ => false
  | .unbacked => true

/-- Byte i of the buffer window as a host reads it: 0 above the buffer (R61, R62). -/
def windowByte (p : Params) (s : State) (i : Nat) : Byte :=
  if i < p.bufBytes then readByte p s i else 0#8

/-- A host read of `bytes` bytes of the buffer window from index i, little-endian (R62), zero-extended (log 8). -/
def readWindow (p : Params) (s : State) (bytes i : Nat) : Word :=
  leWord (windowByte p s i)
    (if 2 ≤ bytes then windowByte p s (i + 1) else 0#8)
    (if 3 ≤ bytes then windowByte p s (i + 2) else 0#8)
    (if 4 ≤ bytes then windowByte p s (i + 3) else 0#8)

/-- A host write of the given bytes to the buffer window from index i: bytes above the buffer, at and past `BUF_BYTES`,
are ignored (R61, R62). -/
def writeWindow (p : Params) (s : State) (i : Nat) (l : List Byte) : State :=
  writeBytes p s i (l.take (p.bufBytes - i))

/-- What an accepted read returns (R61 to R63, R40). -/
def readPlace (p : Params) (s : State) (bytes : Nat) : Place → Word
  | .reg r => readReg p s r
  | .reserved => 0#32
  | .buffer i => readWindow p s bytes i
  | .unbacked => 0#32

/-- What an accepted write does (R61 to R63, R40). -/
def writePlace (p : Params) (s : State) (bytes : Nat) (v : Word) : Place → State
  | .reg r => writeReg p s r v
  | .reserved => s
  | .buffer i => writeWindow p s i ((leBytes v).take bytes)
  | .unbacked => s

/-- Why an access has no meaning, if it has none: reset asserted (R250), not accepted by the bus (R64), forbidden while
BUSY (R260). -/
def accessRefusal (p : Params) (s : State) (bytes off : Nat) : Option Refusal :=
  if s.resetAsserted then some .accessInReset
  else if !busAccepts bytes off then some .busError
  else if s.busy && !placeAllowedBusy (placeOf p off) then some .busyAccess
  else none

/-- A host read: no side effect on the block (R67); its data is recorded for the host (log 8). -/
def hostRead (p : Params) (s : State) (bytes off : Nat) : Host.Outcome State Fault Refusal :=
  match accessRefusal p s bytes off with
  | some e => .refused e
  | none => .next { s with busData := some (readPlace p s bytes (placeOf p off)) }

/-- A host write. -/
def hostWrite (p : Params) (s : State) (bytes off : Nat) (v : Word) : Host.Outcome State Fault Refusal :=
  match accessRefusal p s bytes off with
  | some e => .refused e
  | none => .next (writePlace p s bytes v (placeOf p off))

/-- Reset asserted (R250): the command in flight is abandoned with none of its effects (log 6). -/
def assertReset (s : State) : State := { s with resetAsserted := true, inflight := none, wait := 0 }

/-- Reset released (R250, R251): every register at its reset value and the whole buffer unspecified anew. What is not the
block's (the pending host actions and the last data read) and the counters of draws stay (log 4, log 6). -/
def releaseReset (s : State) : State :=
  if s.resetAsserted then
    { State.reset with gen := s.gen + 1, accepted := s.accepted, host := s.host, busData := s.busData }
  else s

/-- One action of the outside world on the block, the action already taken off the list. A poll that reads BUSY = 1 is put
back: the loop of `WAIT` (R86). -/
def hostAction (p : Params) (s : State) : HostEvent → Host.Outcome State Fault Refusal
  | .read bytes off => hostRead p s bytes off.toNat
  | .write bytes off data => hostWrite p s bytes off.toNat data
  | .poll => hostRead p (if s.busy then { s with host := .poll :: s.host } else s) 4 (Reg.offset .status)
  | .resetAssert => .next (assertReset s)
  | .resetRelease => .next (releaseReset s)

/-- The host's turn: its oldest pending action (R70). With none pending the block does nothing (R245). -/
def hostStep (p : Params) (s : State) : Host.Outcome State Fault Refusal :=
  match s.host with
  | [] => .next s
  | e :: rest => hostAction p { s with host := rest } e

/-- The state in which the command word w is about to be run: a command is in flight with no step left to wait, so that
the next step completes it; any other word is the host's next CMD write (R210; log 3). -/
def placeCommand (s : State) (w : Word) : State :=
  match decode w with
  | .ok i => { s with resetAsserted := false, inflight := some i, wait := 0 }
  | .error _ =>
    { s with resetAsserted := false, inflight := none, wait := 0
             host := .write 4 (BitVec.ofNat 17 (Reg.offset .cmd)) w :: s.host }

end Sys2Proof.Machine
end

