-- ==== Sys2Proof/Machine/BitPacker.lean ====
section
/-! DEFINITION. The BitPacker and the PACK and UNPACK commands (41_bitpacker.md). -/

namespace Sys2Proof.Machine

/-- `Pack` (R140, R98): 2-bit lanes, the most significant lane first; byte 3 bits 5:0 are 0. -/
def pack (c : Codes) : Packed where
  b1 := c.c1 ++ c.c2 ++ c.c3 ++ c.c4
  b2 := c.c5 ++ c.c6 ++ c.c7 ++ c.c8
  b3 := c.c9 ++ 0#6

/-- `Unpack` (R141): the same lanes; byte 3 bits 5:0 are not read. -/
def unpack (b : Packed) : Codes where
  c1 := b.b1.extractLsb' 6 2
  c2 := b.b1.extractLsb' 4 2
  c3 := b.b1.extractLsb' 2 2
  c4 := b.b1.extractLsb' 0 2
  c5 := b.b2.extractLsb' 6 2
  c6 := b.b2.extractLsb' 4 2
  c7 := b.b2.extractLsb' 2 2
  c8 := b.b2.extractLsb' 0 2
  c9 := b.b3.extractLsb' 6 2

/-- `CodeValue` (R142), and +0.0 for code 3 as the decoder takes it (R186). -/
def codeValue (c : Code2) : Word :=
  match c.toNat with
  | 1 => ONE
  | 2 => MONE
  | _ => PZERO

/-- The rule of PACK (R144). -/
def packRule (s : State) : CmdResult :=
  .finished { s with packed := packedToBits (pack (codesOfBits s.codes)) }

/-- The rule of UNPACK (R145). -/
def unpackRule (s : State) : CmdResult :=
  .finished { s with codes := codesToBits (unpack (packedOfBits s.packed)) }

/-- PACK (R144), performed at completion (R212). -/
def execPack (s : State) : Host.Outcome State Fault Refusal := .next (complete s (packRule s))

/-- UNPACK (R145), performed at completion (R212). -/
def execUnpack (s : State) : Host.Outcome State Fault Refusal := .next (complete s (unpackRule s))

end Sys2Proof.Machine
end

