-- ==== Sys2Proof/Machine/Float.lean ====
section
/-! DEFINITION. binary32 as the spec uses it (R9, R10, R113, R184): predicates, exact values, comparisons and the one
rounding. Every real number of the rules is a rational, so values are `Rat` and nothing is approximated. -/

namespace Sys2Proof.Machine

/-- Bits 30:23, the biased exponent (R9). -/
def expField (x : Word) : Nat := (x.extractLsb' 23 8).toNat

/-- Bits 22:0, the fraction (R9). -/
def fracField (x : Word) : Nat := (x.extractLsb' 0 23).toNat

/-- Bit 31, the sign (R9). -/
def signBit (x : Word) : Bool := x.getLsbD 31

/-- R9. -/
def isNaN (x : Word) : Bool := expField x == 0xFF && fracField x != 0

/-- R9: `x[30:0] = 0x7F800000`. -/
def isInf (x : Word) : Bool := x.extractLsb' 0 31 == 0x7F800000#31

/-- R9. -/
def isFinite (x : Word) : Bool := expField x != 0xFF

/-- The magnitude of a finite pattern in units of 2^-149, the least subnormal: every finite binary32 value is a whole
number of them (R9). -/
def magUnits (x : Word) : Nat :=
  if expField x = 0 then fracField x else (2 ^ 23 + fracField x) * 2 ^ (expField x - 1)

/-- `val(x)`: the exact real value of a finite pattern (R9); both zeros have value 0. -/
def val (x : Word) : Rat :=
  mkRat (if signBit x then -(magUnits x : Int) else (magUnits x : Int)) (2 ^ 149)

/-- `absval(x)` (R10), used on finite patterns only. -/
def absval (x : Word) : Rat := |val x|

/-- `neg(x) = x XOR 0x80000000` (R10): any pattern, NaN included. -/
def neg (x : Word) : Word := x ^^^ 0x80000000#32

/-- The real order extended by -inf < every finite value < +inf (R10), for patterns that are not NaN: 2^128 lies above
every finite value. -/
def ordVal (x : Word) : Rat :=
  if isInf x then mkRat (if signBit x then -(2 ^ 128) else 2 ^ 128) 1 else val x

/-- `lt(x, y)` (R10): false when either is NaN; the two zeros compare equal. -/
def lt (x y : Word) : Bool := !isNaN x && !isNaN y && decide (ordVal x < ordVal y)

/-- `ge(x, y)` (R10): `lt(y, x)` or equality in the same order; false when either is NaN. -/
def ge (x y : Word) : Bool := !isNaN x && !isNaN y && decide (ordVal y ≤ ordVal x)

/-- `small(x)` (R113): magnitude below epsilon. -/
def small (x : Word) : Bool := isFinite x && decide (absval x < val EPS)

/-- `big(x)` (R113): magnitude at or above epsilon, an infinity included, a NaN not. -/
def big (x : Word) : Bool := !isNaN x && (isInf x || decide (val EPS ≤ absval x))

/-- `near(x, v)` (R113): within epsilon of v. -/
def near (x : Word) (v : Int) : Bool := isFinite x && decide (|val x - v| < val EPS)

/-- Bits 30:0 of the pattern nearest to n / d, ties to an even fraction, for d > 0 (R10). The quotient is counted in
units of 2^-149 shifted left until at most 24 significant bits stand before the point; that shift is the exponent field
less one (or zero), and a carry out of the fraction moves into it. From 2^128 less half a unit in the last place on, the
result is the infinity. -/
def roundMag (n d : Nat) : Nat :=
  let units := n * 2 ^ 149
  let shift := (units / d).log2 - 23
  let unit := d * 2 ^ shift
  let low := units / unit
  let rest := units % unit
  let q := if unit < 2 * rest ∨ (2 * rest = unit ∧ low % 2 = 1) then low + 1 else low
  min (shift * 2 ^ 23 + q) 0x7F800000

/-- `round32(r)` (R10): round to nearest, ties to even; `round32(0)` is +0.0. A negative nonzero real that rounds to
zero lies equally near to both zeros and the rule does not say which pattern results: that sign is the free value
`negZero` (log 5). -/
def round32 (p : Params) (r : Rat) : Word :=
  let mag := roundMag r.num.natAbs r.den
  let sign := decide (r < 0) && (mag != 0 || p.negZero r)
  BitVec.ofBool sign ++ BitVec.ofNat 31 mag

/-- `rnd(e; o1..ok)` (R184): CNAN if any operand is not finite, else `round32` of the exact value of e. -/
def rnd (p : Params) (e : Rat) (operands : List Word) : Word :=
  if operands.all isFinite then round32 p e else CNAN

/-- `mul(a, b)` (R184). -/
def mul (p : Params) (a b : Word) : Word := rnd p (val a * val b) [a, b]

end Sys2Proof.Machine
end

