-- ==== Sys2Proof/Machine/Classifier.lean ====
section
/-! DEFINITION. The RotationClassifier and the CLASSIFY command (40_classifier.md). -/

namespace Sys2Proof.Machine

/-- `EulerXYZ(M)` (R111): the general case when M[0][2] is NaN or strictly between -1 and 1, else gimbal lock. -/
def eulerXYZ (p : Params) (m : Mat3) : Vec3 :=
  let sy := m.m02
  if isNaN sy || (lt sy ONE && lt MONE sy) then
    ⟨p.atan2_32 (neg m.m12) m.m22, p.asin32 sy, p.atan2_32 (neg m.m01) m.m00⟩
  else if ge sy ONE then
    ⟨p.atan2_32 m.m21 m.m11, HALFPI32, PZERO⟩
  else
    ⟨p.atan2_32 m.m21 m.m11, neg HALFPI32, PZERO⟩

/-- `IsIdentity(a)` (R114). -/
def isIdentity (a : Vec3) : Bool := small a.x && small a.y && small a.z

/-- `Code(x)` (R115): 0, 1, 2 for an entry near 0, 1, -1, else none. -/
def codeOf (x : Word) : Option Code2 :=
  if near x 0 then some 0#2
  else if near x 1 then some 1#2
  else if near x (-1) then some 2#2
  else none

/-- The axis-aligned test (R116): the nine codes in row-major order (R99), or none if an entry has no code. -/
def axisAlignedCodes (m : Mat3) : Option Codes := do
  let c1 ← codeOf m.m00
  let c2 ← codeOf m.m01
  let c3 ← codeOf m.m02
  let c4 ← codeOf m.m10
  let c5 ← codeOf m.m11
  let c6 ← codeOf m.m12
  let c7 ← codeOf m.m20
  let c8 ← codeOf m.m21
  let c9 ← codeOf m.m22
  return ⟨c1, c2, c3, c4, c5, c6, c7, c8, c9⟩

/-- `SingleAxis(a)` (R117): the axis id and its angle, tested in the order X, Y, Z. -/
def singleAxis (a : Vec3) : Option (BitVec 2 × Word) :=
  if big a.x && small a.y && small a.z then some (1#2, a.x)
  else if small a.x && big a.y && small a.z then some (2#2, a.y)
  else if small a.x && small a.y && big a.z then some (3#2, a.z)
  else none

/-- What `Classify` returns (R119). -/
structure Classification where
  kind : EncodingKind
  euler : Vec3
  /-- The nine codes of an AxisAligned rotation, none for the other kinds. -/
  codes : Option Codes
  axis : BitVec 2
  angle : Word
deriving DecidableEq, Repr

/-- `Classify(M)` (R119): the ordered chain Identity, AxisAligned, SingleAxis, Euler; the first match wins. -/
def classify (p : Params) (m : Mat3) : Classification :=
  let a := eulerXYZ p m
  if isIdentity a then ⟨.identity, a, none, 0#2, PZERO⟩
  else
    match axisAlignedCodes m with
    | some c => ⟨.axisAligned, a, some c, 0#2, PZERO⟩
    | none =>
      match singleAxis a with
      | some (axis, angle) => ⟨.singleAxis, a, none, axis, angle⟩
      | none => ⟨.euler, a, none, 0#2, PZERO⟩

/-- CODES as a classification writes it (R123): the nine codes of an AxisAligned one, else 0. -/
def classCodes (c : Classification) : BitVec 18 :=
  match c.codes with
  | some k => codesToBits k
  | none => 0#18

/-- "write the classification C" (R123). -/
def writeClassification (s : State) (c : Classification) : State :=
  { s with
    clsKind := kindCode c.kind
    clsEuler := c.euler
    clsAxis := c.axis
    clsAngle := c.angle
    codes := classCodes c }

/-- The rule of CLASSIFY (R125). -/
def classifyRule (p : Params) (s : State) : CmdResult :=
  .finished (writeClassification s (classify p s.inRot))

/-- CLASSIFY (R125), performed at completion (R212). -/
def execClassify (s : State) : Host.Outcome State Fault Refusal := .next (complete s (classifyRule Config.hw s))

end Sys2Proof.Machine
end

