-- ==== Sys2Proof/Machine/Decoder.lean ====
section
/-! DEFINITION. The Decoder and the DECODE command (43_decoder.md). No rule here compares a value with EPS (R187). -/

namespace Sys2Proof.Machine

/-- `IdentityMatrix` (R182). -/
def identityMatrix : Mat3 := ⟨ONE, PZERO, PZERO, PZERO, ONE, PZERO, PZERO, PZERO, ONE⟩

/-- `AxisMatrix(axis, θ)` (R183) for the axis ids 1, 2 and 3; none for every other byte (R97, R195). -/
def axisMatrix (p : Params) (axis : Byte) (θ : Word) : Option Mat3 :=
  let c := p.cos32 θ
  let s := p.sin32 θ
  match axis.toNat with
  | 1 => some ⟨ONE, PZERO, PZERO, PZERO, c, neg s, PZERO, s, c⟩
  | 2 => some ⟨c, PZERO, s, PZERO, ONE, PZERO, neg s, PZERO, c⟩
  | 3 => some ⟨c, neg s, PZERO, s, c, PZERO, PZERO, PZERO, ONE⟩
  | _ => none

/-- `EulerMatrix(ax, ay, az)` (R185): Rx·Ry·Rz of R110, each entry rounded once from its exact value (R184). -/
def eulerMatrix (p : Params) (a : Vec3) : Mat3 :=
  let sx := p.sin32 a.x
  let cx := p.cos32 a.x
  let sy := p.sin32 a.y
  let cy := p.cos32 a.y
  let sz := p.sin32 a.z
  let cz := p.cos32 a.z
  { m00 := mul p cy cz
    m01 := neg (mul p cy sz)
    m02 := sy
    m10 := rnd p (val sx * val sy * val cz + val cx * val sz) [sx, sy, cz, cx, sz]
    m11 := rnd p (val cx * val cz - val sx * val sy * val sz) [cx, cz, sx, sy, sz]
    m12 := neg (mul p sx cy)
    m20 := rnd p (val sx * val sz - val cx * val sy * val cz) [sx, sz, cx, sy, cz]
    m21 := rnd p (val sx * val cz + val cx * val sy * val sz) [sx, cz, cx, sy, sz]
    m22 := mul p cx cy }

/-- `CodesMatrix(c1..c9)` (R186): row-major. -/
def codesMatrix (c : Codes) : Mat3 where
  m00 := codeValue c.c1
  m01 := codeValue c.c2
  m02 := codeValue c.c3
  m10 := codeValue c.c4
  m11 := codeValue c.c5
  m12 := codeValue c.c6
  m20 := codeValue c.c7
  m21 := codeValue c.c8
  m22 := codeValue c.c9

/-- Some lane holds code 3 (R186, R224). -/
def hasCode3 (c : Codes) : Bool :=
  [c.c1, c.c2, c.c3, c.c4, c.c5, c.c6, c.c7, c.c8, c.c9].any (· == 3#2)

/-- `DecodeLen(tag)` (R189, R91). -/
def decodeLen (tag : Byte) : Nat :=
  match tag.toNat with
  | 0 => 25
  | 1 => 13
  | 2 => 16
  | 3 => 18
  | _ => 13

/-- The rotation of a decoded frame and whether the decode flags MALFORMED. -/
structure Decoded where
  rot : Mat3
  malformed : Bool
deriving DecidableEq, Repr

/-- Tag 2 (R193): bits 5:0 of the third byte are not read. -/
def decodeAxisAligned (p : Params) (s : State) (c : Nat) : Decoded :=
  let codes := unpack ⟨readByte p s (c + 13), readByte p s (c + 14), readByte p s (c + 15)⟩
  ⟨codesMatrix codes, hasCode3 codes⟩

/-- Tag 0 (R194). -/
def decodeEuler (p : Params) (s : State) (c : Nat) : Decoded :=
  ⟨eulerMatrix p ⟨readWord p s (c + 13), readWord p s (c + 17), readWord p s (c + 21)⟩, false⟩

/-- Tag 3 (R195): an axis id other than 1, 2, 3 gives no rotation and discards the angle. -/
def decodeSingleAxis (p : Params) (s : State) (c : Nat) : Decoded :=
  match axisMatrix p (readByte p s (c + 13)) (readWord p s (c + 14)) with
  | some r => ⟨r, false⟩
  | none => ⟨identityMatrix, true⟩

/-- The dispatch on the tag byte (R192 to R196). -/
def decodeRotation (p : Params) (s : State) (c : Nat) (tag : Byte) : Decoded :=
  match tag.toNat with
  | 0 => decodeEuler p s c
  | 1 => ⟨identityMatrix, false⟩
  | 2 => decodeAxisAligned p s c
  | 3 => decodeSingleAxis p s c
  | _ => ⟨identityMatrix, true⟩

/-- The position field of the frame at c (R92, R181). -/
def decodePosition (p : Params) (s : State) (c : Nat) : Vec3 :=
  ⟨readWord p s (c + 1), readWord p s (c + 5), readWord p s (c + 9)⟩

/-- DECODE past its bounds checks (R197): OUT_POS, OUT_ROT, LEN, TAG and the MALFORMED flag; CURSOR stays (R200). -/
def decodeFrame (p : Params) (s : State) (c : Nat) (tag : Byte) : State :=
  { s with
    outPos := decodePosition p s c
    outRot := (decodeRotation p s c tag).rot
    len := BitVec.ofNat 8 (decodeLen tag)
    tag := tag
    malformed := s.malformed || (decodeRotation p s c tag).malformed }

/-- The rule of DECODE (R197): the header check comes before the tag is read, the frame check before any payload
(R190, R191, R225). -/
def decodeRule (p : Params) (s : State) : CmdResult :=
  let c := s.cursor.toNat
  boundsCheck p c 13 (
    let tag := readByte p s c
    boundsCheck p c (decodeLen tag) (.finished (decodeFrame p s c tag)))

/-- DECODE (R197), performed at completion (R212). -/
def execDecode (s : State) : Host.Outcome State Fault Refusal := .next (complete s (decodeRule Config.hw s))

end Sys2Proof.Machine
end

