-- ==== Sys2Proof/Machine/Encoder.lean ====
section
/-! DEFINITION. The Encoder and the ENCODE command (42_encoder.md). -/

namespace Sys2Proof.Machine

/-- `FrameLen(kind)` (R160, R91). -/
def frameLen : EncodingKind → Nat
  | .euler => 25
  | .identity => 13
  | .axisAligned => 16
  | .singleAxis => 18

/-- The three packed bytes of an AxisAligned classification (R161); a classification of that kind has codes (R119). -/
def packedPayload (c : Classification) : List Byte :=
  match c.codes with
  | some k => [(pack k).b1, (pack k).b2, (pack k).b3]
  | none => []

/-- The payload after the 13-byte header (R161, R93 to R96). -/
def payloadBytes (c : Classification) : List Byte :=
  match c.kind with
  | .identity => []
  | .axisAligned => packedPayload c
  | .singleAxis => c.axis.zeroExtend 8 :: leBytes c.angle
  | .euler => leBytes c.euler.x ++ leBytes c.euler.y ++ leBytes c.euler.z

/-- `FrameBytes(P, C)` (R161): tag, position, payload; every f32 is copied bit for bit (R163). -/
def frameBytes (pos : Vec3) (c : Classification) : List Byte :=
  tagByte c.kind :: (leBytes pos.x ++ leBytes pos.y ++ leBytes pos.z ++ payloadBytes c)

/-- ENCODE past its bounds check (R165 to R167): the frame written at w, the classification, WR_PTR advanced by n, LEN
and TAG. -/
def encodeFrame (p : Params) (s : State) (c : Classification) (w n : Nat) : State :=
  { writeClassification (writeBytes p s w (frameBytes s.inPos c)) c with
    wrPtr := BitVec.ofNat 32 (w + n)
    len := BitVec.ofNat 8 n
    tag := tagByte c.kind }

/-- The rule of ENCODE (R167): classification, then the reservation of the whole frame (R162, R164), then the writes. -/
def encodeRule (p : Params) (s : State) : CmdResult :=
  let c := classify p s.inRot
  let n := frameLen c.kind
  let w := s.wrPtr.toNat
  boundsCheck p w n (.finished (encodeFrame p s c w n))

/-- ENCODE (R167), performed at completion (R212). -/
def execEncode (s : State) : Host.Outcome State Fault Refusal := .next (complete s (encodeRule Config.hw s))

end Sys2Proof.Machine
end

