-- ==== Sys2Proof/Machine/Step.lean ====
section
/-! DEFINITION. One step: the in-flight command completes, or the outside world acts (R70, R212, R265). -/

namespace Sys2Proof.Machine

/-- One step of the machine. -/
def step (s : State) : Host.Outcome State Fault Refusal :=
  match turn s with
  | .engine i => exec i s
  | .host t => hostStep Config.hw t

/-- s with the command word of an opcode-table row placed so that the very next step runs it (log 3). -/
def State.withFetchWord (s : State) (nbits w : Nat) : State := placeCommand s (tableWord nbits w)

end Sys2Proof.Machine
end

