-- ==== Sys2Proof/Machine/HostAsm.lean ====
section
/-! DEFINITION. The host assembly (R85) and its pseudo-instructions (R86), as the bus actions they stand for. A label is
no transaction, and `if COND goto label` is the host's own control flow on values it has read (log 12); the one loop the
spec names, WAIT, is the action `poll`. -/

namespace Sys2Proof.Machine

/-- One line of a host program (R85, R86). -/
inductive HostLine where
  | wr (r : Reg) (v : Word)
  | rd (r : Reg)
  | wrb (i : Nat) (v : Byte)
  | rdb (i : Nat)
  | wrw (i : Nat) (v : Word)
  | cmd (i : Instr)
  | wait
  | run (i : Instr)
  | clear
  | wrf (r : Reg) (x : Rat)
deriving DecidableEq, Repr

/-- The host offset of a register. -/
def regOff (r : Reg) : BitVec 17 := BitVec.ofNat 17 r.offset

/-- The host offset of buffer byte i (R61, R85). For i of 0x10000 or more, `0x10000 + i` lies outside the 17-bit host
space (R60) and R85 gives the line no meaning. DESIGN CHOICE (log 22): the offset is taken modulo 2^17, so the access
falls on the register window. -/
def bufOff (i : Nat) : BitVec 17 := BitVec.ofNat 17 (0x10000 + i)

/-- The bus write that issues a command (R85). -/
def cmdEvent (i : Instr) : HostEvent := .write 4 (regOff .cmd) (encode i)

/-- The bus actions of a line (R85, R86). `wrf` writes "the binary32 pattern of the decimal x"; for a decimal that
binary32 does not hold exactly R86 does not say which pattern. DESIGN CHOICE (log 21): `round32` of it, to nearest, ties
to even, and -0.0 as the number 0, so +0.0. -/
def expandLine (p : Params) : HostLine → List HostEvent
  | .wr r v => [.write 4 (regOff r) v]
  | .rd r => [.read 4 (regOff r)]
  | .wrb i v => [.write 1 (bufOff i) (v.zeroExtend 32)]
  | .rdb i => [.read 1 (bufOff i)]
  | .wrw i v => [.write 4 (bufOff i) v]
  | .cmd i => [cmdEvent i]
  | .wait => [.poll]
  | .run i => [cmdEvent i, .poll]
  | .clear => [.write 4 (regOff .status) 0x1E#32]
  | .wrf r x => [.write 4 (regOff r) (round32 p x)]

/-- The bus actions of a host program, in order. -/
def expandProgram (p : Params) (lines : List HostLine) : List HostEvent := lines.flatMap (expandLine p)

end Sys2Proof.Machine
end

