-- ==== Sys2Proof/Machine/Trig.lean ====
section
/-! DEFINITION. I-TRIG (93_implementation_defined.md §3): hypotheses a claim may name about the trigonometric parameters
(R6). Nothing in the machine uses them. -/

namespace Sys2Proof.Machine

/-- -0.0. -/
def NZERO : Word := 0x80000000#32

/-- The binary32 value nearest to pi (I-TRIG T4). -/
def PI32 : Word := 0x40490FDB#32

/-- T1: the sine of a zero is that zero. -/
def TrigT1 (p : Params) : Prop := p.sin32 PZERO = PZERO ∧ p.sin32 NZERO = NZERO

/-- T2: the cosine of a zero is 1. -/
def TrigT2 (p : Params) : Prop := p.cos32 PZERO = ONE ∧ p.cos32 NZERO = ONE

/-- T3: the arcsine of a zero is that zero. -/
def TrigT3 (p : Params) : Prop := p.asin32 PZERO = PZERO ∧ p.asin32 NZERO = NZERO

/-- T4: `ATAN2_32` where an operand is a zero. -/
structure TrigT4 (p : Params) : Prop where
  /-- A zero over +0.0 or a positive x is that zero. -/
  zero_pos : ∀ x, x = PZERO ∨ lt PZERO x = true → p.atan2_32 PZERO x = PZERO ∧ p.atan2_32 NZERO x = NZERO
  /-- A zero over -0.0 or a negative x is pi with the zero's sign. -/
  zero_neg : ∀ x, x = NZERO ∨ lt x PZERO = true → p.atan2_32 PZERO x = PI32 ∧ p.atan2_32 NZERO x = neg PI32
  /-- A positive y over a zero is pi/2. -/
  pos_zero : ∀ y x, lt PZERO y = true → x = PZERO ∨ x = NZERO → p.atan2_32 y x = HALFPI32
  /-- A negative y over a zero is -pi/2. -/
  neg_zero : ∀ y x, lt y PZERO = true → x = PZERO ∨ x = NZERO → p.atan2_32 y x = neg HALFPI32

/-- T5: a NaN operand gives a NaN result. -/
structure TrigT5 (p : Params) : Prop where
  sin_nan : ∀ x, isNaN x = true → isNaN (p.sin32 x) = true
  cos_nan : ∀ x, isNaN x = true → isNaN (p.cos32 x) = true
  asin_nan : ∀ x, isNaN x = true → isNaN (p.asin32 x) = true
  atan2_nan : ∀ y x, isNaN y = true ∨ isNaN x = true → isNaN (p.atan2_32 y x) = true

/-- T6: the sine and cosine of a finite value are finite, of magnitude at most 1. -/
structure TrigT6 (p : Params) : Prop where
  sin_le : ∀ x, isFinite x = true → isFinite (p.sin32 x) = true ∧ absval (p.sin32 x) ≤ 1
  cos_le : ∀ x, isFinite x = true → isFinite (p.cos32 x) = true ∧ absval (p.cos32 x) ≤ 1

/-- T7: the inverse functions on finite operands are finite, of magnitude at most PI32. -/
structure TrigT7 (p : Params) : Prop where
  asin_le : ∀ x, isFinite x = true → absval x ≤ 1 →
    isFinite (p.asin32 x) = true ∧ absval (p.asin32 x) ≤ val PI32
  atan2_le : ∀ y x, isFinite y = true → isFinite x = true →
    isFinite (p.atan2_32 y x) = true ∧ absval (p.atan2_32 y x) ≤ val PI32

end Sys2Proof.Machine
end

