-- ==== Sys2Proof/Safety.lean ====
section
/-! DEFINITION. The terms claims use: legal states, what no command writes, and host actions that have a meaning. -/

namespace Sys2Proof.Machine

/-- LEN and TAG are both 0 (no frame yet), or LEN is the frame length of the tag byte (R28, R29, R91). -/
def lenTagLegal (s : State) : Prop := (s.len = 0#8 ∧ s.tag = 0#8) ∨ s.len = BitVec.ofNat 8 (decodeLen s.tag)

/-- The angle of an Euler triple about an axis id (R31, R117). -/
def axisComponent (a : Vec3) (axis : BitVec 2) : Option Word :=
  match axis.toNat with
  | 1 => some a.x
  | 2 => some a.y
  | 3 => some a.z
  | _ => none

/-- CLS_AXIS and CLS_ANGLE agree with CLS_KIND and CLS_EULER (R31, R32, R117): for SingleAxis, an axis 1, 2 or 3 and the
angle of the decomposition about it, not below epsilon; for every other kind, 0 and +0.0. -/
def clsLegal (s : State) : Prop :=
  if s.clsKind = 3#2 then axisComponent s.clsEuler s.clsAxis = some s.clsAngle ∧ big s.clsAngle = true
  else s.clsAxis = 0#2 ∧ s.clsAngle = PZERO

/-- A legal state: the buffer in canonical form (R41), no waiting without a command (R43), nothing in flight in reset
(R250), LEN with TAG, and the CLS registers among themselves. -/
structure Inv (s : State) : Prop where
  buf_wf : Memory.wf Config.hw s.gen s.buf = true
  wait_idle : s.inflight = none → s.wait = 0
  reset_idle : s.resetAsserted = true → s.inflight = none
  len_tag : lenTagLegal s
  cls : clsLegal s

/-- The state no command writes (R83): CTRL, CURSOR, the input transform, STATUS.ILLEGAL, and everything that belongs to
the host, the reset input and the draws. -/
structure CommandKeeps (s t : State) : Prop where
  ie : t.ie = s.ie
  illegal : t.illegal = s.illegal
  cursor : t.cursor = s.cursor
  inPos : t.inPos = s.inPos
  inRot : t.inRot = s.inRot
  resetAsserted : t.resetAsserted = s.resetAsserted
  gen : t.gen = s.gen
  accepted : t.accepted = s.accepted
  wait : t.wait = s.wait
  host : t.host = s.host
  busData : t.busData = s.busData

/-- The CLS registers and CODES are as before (R83). -/
structure ClsKept (s t : State) : Prop where
  clsKind : t.clsKind = s.clsKind
  clsAxis : t.clsAxis = s.clsAxis
  clsAngle : t.clsAngle = s.clsAngle
  clsEuler : t.clsEuler = s.clsEuler

/-- OUT_POS and OUT_ROT are as before (R83). -/
structure OutKept (s t : State) : Prop where
  outPos : t.outPos = s.outPos
  outRot : t.outRot = s.outRot

/-- LEN, TAG and WR_PTR are as before (R83). -/
structure StreamKept (s t : State) : Prop where
  wrPtr : t.wrPtr = s.wrPtr
  len : t.len = s.len
  tag : t.tag = s.tag

/-- Every byte of the wire buffer reads as before, but those at indices from lo to hi - 1. -/
def BufKeptOutside (p : Params) (s t : State) (lo hi : Nat) : Prop :=
  ∀ a, a < lo ∨ hi ≤ a → readByte p t a = readByte p s a

/-- Every byte of the wire buffer reads as before. -/
def BufKept (p : Params) (s t : State) : Prop := ∀ a, readByte p t a = readByte p s a

/-- Two states hold the same buffer bytes at indices from lo to hi - 1. -/
def BufAgree (p : Params) (s t : State) (lo hi : Nat) : Prop :=
  ∀ a, lo ≤ a → a < hi → readByte p t a = readByte p s a

/-- The state of a fault (R222): nothing changed but BOUNDS, DONE and INFLIGHT. -/
def boundsFaulted (s : State) : State := { s with bounds := true, done := true, inflight := none }

/-- An action that has a meaning while a command is in flight and keeps that command (R260): a poll, or a 32-bit access
to ID, BUFSZ, CTRL, STATUS or CMD. -/
def busySafe : HostEvent → Prop
  | .poll => True
  | .read bytes off => bytes = 4 ∧ ∃ r, busyAllowed r = true ∧ off = regOff r
  | .write bytes off _ => bytes = 4 ∧ ∃ r, busyAllowed r = true ∧ off = regOff r
  | .resetAssert => False
  | .resetRelease => False

end Sys2Proof.Machine
end

