-- ==== Sys2Proof/Certificates/Slice0/Obligations.lean ====
section
/-! DEFINITION. What is claimed of the machine: one proposition per obligation, to be proved elsewhere. A clause that rests
on a choice of the model and not on a rule says so and names its log entry. -/

open Sys2Proof Sys2Proof.Machine

/-! ## Encoding -/

/-- R81: a word selects a command exactly when it is one of the six words of the opcode map. -/
def Obligations.DecodeAcceptsExactlySixWords : Prop :=
  (∀ (w : Word) (i : Instr), decode w = .ok i ↔ w = encode i) ∧
  encode .nop = 0x00000000#32 ∧ encode .encode = 0x00000001#32 ∧ encode .decode = 0x00000002#32 ∧
  encode .classify = 0x00000003#32 ∧ encode .pack = 0x00000004#32 ∧ encode .unpack = 0x00000005#32

/-- R80, R82: which words are rejected, and by which name. -/
def Obligations.ReservedWordsRejectedByName : Prop :=
  ∀ w : Word,
    (decode w = .error .reservedBits ↔ 256 ≤ w.toNat) ∧
    (decode w = .error .reservedOpcode ↔ 6 ≤ w.toNat ∧ w.toNat < 256)

/-- Words written out from R80 and R81, and the two illegal words R215 names. -/
def Obligations.WrittenWordsDecode : Prop :=
  decode 0b00000000000000000000000000000000#32 = .ok .nop ∧
  decode 0b00000000000000000000000000000001#32 = .ok .encode ∧
  decode 0b00000000000000000000000000000010#32 = .ok .decode ∧
  decode 0b00000000000000000000000000000011#32 = .ok .classify ∧
  decode 0b00000000000000000000000000000100#32 = .ok .pack ∧
  decode 0b00000000000000000000000000000101#32 = .ok .unpack ∧
  decode 0x00000100#32 = .error .reservedBits ∧
  decode 0x00000006#32 = .error .reservedOpcode

/-! ## Acceptance, completion and steps -/

/-- R212: with a command in flight and no step left to wait, the step is the command's completion; and the word that
`withFetchWord` places is decoded and run by the very next step (the model's placing, log 3). -/
def Obligations.StepRunsDecodedCommand : Prop :=
  (∀ (s : State) (i : Instr), s.resetAsserted = false → s.inflight = some i → s.wait = 0 → step s = exec i s) ∧
  (∀ (s : State) (w : Word) (i : Instr), decode w = .ok i →
    s.withFetchWord 32 w.toNat = { s with resetAsserted := false, inflight := some i, wait := 0 } ∧
    step (s.withFetchWord 32 w.toNat) = exec i (s.withFetchWord 32 w.toNat))

/-- R211: a CMD write that selects a command sets INFLIGHT, BUSY reads 1 from then on, and nothing else of the block
changes. The fields `host`, `wait` and `accepted` are the model's own (log 1, log 2). -/
def Obligations.CmdWriteAcceptsCommand : Prop :=
  ∀ (s : State) (w : Word) (i : Instr) (rest : List HostEvent),
    s.resetAsserted = false → s.inflight = none → s.host = .write 4 0x10#17 w :: rest → decode w = .ok i →
    step s = .next { s with inflight := some i, host := rest, wait := Config.hw.lat s.accepted,
                            accepted := s.accepted + 1 } ∧
    (statusWord { s with inflight := some i }).getLsbD 0 = true

/-- R215: a reserved word written while idle sets ILLEGAL and DONE in the step of the write, and nothing else; BUSY stays
0. -/
def Obligations.ReservedWordIsIllegal : Prop :=
  ∀ (s : State) (w : Word) (rest : List HostEvent),
    s.resetAsserted = false → s.inflight = none → s.host = .write 4 0x10#17 w :: rest →
    (w.extractLsb' 8 24 ≠ 0#24 ∨ 0x06 ≤ (w.extractLsb' 0 8).toNat) →
    ∃ t, step s = .next t ∧ t = { s with host := rest, illegal := true, done := true } ∧
      (statusWord t).getLsbD 0 = false ∧ (statusWord s = 0#32 → statusWord t = 0x00000006#32)

/-- R213: a CMD write while a command is in flight is dropped, whatever the word: ILLEGAL is set, DONE and INFLIGHT are
as before. The wait count is the model's own (log 2). -/
def Obligations.CmdWriteWhileBusyDropped : Prop :=
  ∀ (s : State) (i : Instr) (w : Word) (n : Nat) (rest : List HostEvent),
    s.resetAsserted = false → s.inflight = some i → s.wait = n + 1 → s.host = .write 4 0x10#17 w :: rest →
    step s = .next { s with host := rest, wait := n, illegal := true }

/-- R212: no accepted command can hang: every command's completion is a next state, with DONE set and nothing in
flight. -/
def Obligations.EveryCommandCompletes : Prop :=
  ∀ (i : Instr) (s : State), ∃ t, exec i s = .next t ∧ t.done = true ∧ t.inflight = none

/-- R83: each command writes only its column of the table, and STATUS. For ENCODE the stored bytes are the frame at
WR_PTR, its length that of the classification's kind; the others store nothing. -/
def Obligations.CommandsWriteOnlyTheirColumn : Prop :=
  ∀ (i : Instr) (s t : State), exec i s = .next t →
    CommandKeeps s t ∧
    (i ≠ .encode → BufKept Config.hw s t ∧ t.wrPtr = s.wrPtr) ∧
    (i = .encode → BufKeptOutside Config.hw s t s.wrPtr.toNat
      (s.wrPtr.toNat + frameLen (classify Config.hw s.inRot).kind)) ∧
    (i ≠ .decode → OutKept s t ∧ t.malformed = s.malformed) ∧
    (i ≠ .encode → i ≠ .classify → ClsKept s t) ∧
    (i ≠ .encode → i ≠ .decode → StreamKept s t ∧ t.bounds = s.bounds) ∧
    (i ≠ .encode → i ≠ .classify → i ≠ .unpack → t.codes = s.codes) ∧
    (i ≠ .pack → t.packed = s.packed)

/-- R24, D23: error bits are sticky; only a host write of STATUS with that bit 1, or the release of reset, clears one. That
the assertion of reset keeps all four bits, and only its release clears them, is the model's choice (log 6). -/
def Obligations.StatusBitsClearedOnlyByHostOrReset : Prop :=
  ∀ s t : State, step s = .next t →
    ((s.done = true → t.done = true) ∧ (s.illegal = true → t.illegal = true) ∧ (s.bounds = true → t.bounds = true) ∧
      (s.malformed = true → t.malformed = true)) ∨
    (∃ rest, s.host = .resetRelease :: rest) ∨
    (∃ v rest, s.host = .write 4 0x0C#17 v :: rest ∧
      (s.done = true → v.getLsbD 1 = false → t.done = true) ∧
      (s.illegal = true → v.getLsbD 2 = false → t.illegal = true) ∧
      (s.bounds = true → v.getLsbD 3 = false → t.bounds = true) ∧
      (s.malformed = true → v.getLsbD 4 = false → t.malformed = true))

/-- R225: one command reports at most one of BOUNDS and MALFORMED. -/
def Obligations.AtMostOneOfBoundsAndMalformed : Prop :=
  ∀ (i : Instr) (s t : State), s.bounds = false → s.malformed = false → exec i s = .next t →
    ¬(t.bounds = true ∧ t.malformed = true)

/-- R27, R200: only a host write of CURSOR, or reset, changes CURSOR. That the assertion of reset leaves CURSOR as it is,
and only its release changes it, is the model's choice (log 6). -/
def Obligations.OnlyTheHostMovesCursor : Prop :=
  ∀ s t : State, step s = .next t → t.cursor ≠ s.cursor →
    (∃ v rest, s.host = .write 4 0x18#17 v :: rest ∧ t.cursor = v) ∨ (∃ rest, s.host = .resetRelease :: rest)

/-- R67, R74, R251: a buffer byte changes only by the completion of an ENCODE whose frame covers it, by a host write to the
buffer window, or by reset. That it keeps its value while reset is asserted, and gets its new unspecified value at the
release, is the model's choice (log 4, log 6). -/
def Obligations.OnlyEncodeAndHostWriteBuffer : Prop :=
  ∀ (s t : State) (a : Nat), step s = .next t → readByte Config.hw t a ≠ readByte Config.hw s a →
    (s.inflight = some .encode ∧ s.wait = 0 ∧ s.wrPtr.toNat ≤ a ∧
      a < s.wrPtr.toNat + frameLen (classify Config.hw s.inRot).kind ∧
      s.wrPtr.toNat + frameLen (classify Config.hw s.inRot).kind ≤ Config.hw.bufBytes) ∨
    (∃ n off v rest, s.host = .write n off v :: rest ∧ off.toNat ≤ 0x10000 + a ∧ 0x10000 + a < off.toNat + n ∧
      a < Config.hw.bufBytes) ∨
    (∃ rest, s.host = .resetRelease :: rest)

/-- R20: a read-only register changes only by the completion of a command or by reset, never by a host access. That the
assertion of reset leaves it as it is, and only the release changes it, is the model's choice (log 6). -/
def Obligations.ReadOnlyRegistersIgnoreHost : Prop :=
  ∀ (s t : State) (r : Reg), r.access = .ro → step s = .next t →
    readReg Config.hw t r ≠ readReg Config.hw s r →
    (∃ i, s.inflight = some i ∧ s.wait = 0 ∧ exec i s = .next t) ∨ (∃ rest, s.host = .resetRelease :: rest)

/-! ## NOP, PACK and UNPACK -/

/-- R214: NOP completes, sets DONE and changes nothing else; with no other STATUS bit set, STATUS reads 0x00000002. -/
def Obligations.NopSetsOnlyDone : Prop :=
  decode 0x00000000#32 = .ok .nop ∧
  ∀ s : State, exec .nop s = .next { s with done := true, inflight := none } ∧
    (s.illegal = false → s.bounds = false → s.malformed = false →
      statusWord { s with done := true, inflight := none } = 0x00000002#32)

/-- R144: PACK puts code k = CODES[2k-1:2k-2] into its lane: byte 1 holds codes 1 to 4 and byte 2 codes 5 to 8, the first
in bits 7:6, and byte 3 holds code 9 in bits 7:6 over six zeros; code 3 is packed like the others. It writes PACKED and
DONE and nothing else; PACKED[31:24] read 0. -/
def Obligations.PackFillsLanes : Prop :=
  decode 0x00000004#32 = .ok .pack ∧
  ∀ s : State, ∃ v : BitVec 24,
    exec .pack s = .next { s with packed := v, done := true, inflight := none } ∧
    (let c : Nat → Nat := fun k => s.codes.toNat / 4 ^ (k - 1) % 4
     v.toNat = (c 1 * 64 + c 2 * 16 + c 3 * 4 + c 4) + 256 * (c 5 * 64 + c 6 * 16 + c 7 * 4 + c 8)
       + 65536 * (c 9 * 64)) ∧
    (readReg Config.hw { s with packed := v, done := true, inflight := none } .packed).toNat = v.toNat

/-- R145: UNPACK extracts the nine lanes of PACKED into CODES, does not read bits 5:0 of byte 3, sets no MALFORMED, and
writes CODES and DONE and nothing else; CODES[31:18] read 0. -/
def Obligations.UnpackReadsLanes : Prop :=
  decode 0x00000005#32 = .ok .unpack ∧
  ∀ s : State, ∃ v : BitVec 18,
    exec .unpack s = .next { s with codes := v, done := true, inflight := none } ∧
    (let b1 := s.packed.toNat % 256
     let b2 := s.packed.toNat / 256 % 256
     let b3 := s.packed.toNat / 65536
     v.toNat = b1 / 64 + 4 * (b1 / 16 % 4) + 16 * (b1 / 4 % 4) + 64 * (b1 % 4)
       + 256 * (b2 / 64) + 1024 * (b2 / 16 % 4) + 4096 * (b2 / 4 % 4) + 16384 * (b2 % 4) + 65536 * (b3 / 64)) ∧
    (readReg Config.hw { s with codes := v, done := true, inflight := none } .codes).toNat = v.toNat

/-- R143: unpacking what was packed gives the codes back; packing what was unpacked keeps all but bits 5:0 of byte 3. The
commands do the same: PACK then UNPACK leaves CODES as it was, UNPACK then PACK clears PACKED[21:16] and keeps the rest. -/
def Obligations.PackAndUnpackInvert : Prop :=
  (∀ c : Codes, unpack (pack c) = c) ∧ (∀ b : Packed, pack (unpack b) = { b with b3 := b.b3 &&& 0xC0#8 }) ∧
  ∀ s t u : State,
    (exec .pack s = .next t → exec .unpack t = .next u → u.codes = s.codes) ∧
    (exec .unpack s = .next t → exec .pack t = .next u → u.packed = s.packed &&& 0xC0FFFF#24)

/-! ## binary32 -/

/-- R9: the value of a finite pattern by its fields: (-1)^sign times 2^(exponent-127) times 1.fraction, and for exponent
field 0 times 2^-126 times 0.fraction. (The layout is the spec's general knowledge G1.) -/
def Obligations.ValueOfBinary32Fields : Prop :=
  ∀ x : Word, isFinite x = true →
    val x = (if x.toNat < 2 ^ 31 then 1 else -1) *
      (if x.toNat / 2 ^ 23 % 256 = 0 then ((x.toNat % 2 ^ 23 : Nat) : Rat) / 2 ^ 23 * (1 / 2 ^ 126)
       else (1 + ((x.toNat % 2 ^ 23 : Nat) : Rat) / 2 ^ 23) * (2 ^ (x.toNat / 2 ^ 23 % 256) / 2 ^ 127))

/-- R10: `lt` and `ge` are the real order extended by the infinities: by value on finite patterns; -inf below and +inf
above all of them, nothing below -inf and nothing above +inf; false with a NaN; the two zeros equal; and `ge(x, y)` is
`lt(y, x)` or equality, so that for two patterns that are not NaN exactly one of lt(x, y) and ge(x, y) holds. -/
def Obligations.OrderExtendsReals : Prop :=
  (∀ x y : Word, isFinite x = true → isFinite y = true →
    (lt x y = true ↔ val x < val y) ∧ (ge x y = true ↔ val y ≤ val x)) ∧
  (∀ x : Word, isFinite x = true → lt x 0x7F800000#32 = true ∧ lt 0xFF800000#32 x = true) ∧
  lt 0xFF800000#32 0x7F800000#32 = true ∧
  (∀ x : Word, isNaN x = false → lt 0x7F800000#32 x = false ∧ lt x 0xFF800000#32 = false) ∧
  (∀ x y : Word, isNaN x = true ∨ isNaN y = true → lt x y = false ∧ ge x y = false) ∧
  (∀ x y : Word, isNaN x = false → isNaN y = false →
    ge x y = !lt x y ∧
    (ge x y = true ↔ lt y x = true ∨ x = y ∨ (isFinite x = true ∧ isFinite y = true ∧ val x = val y)))

/-- R10: `neg` inverts the sign bit and keeps bits 30:0 of every pattern, NaN, infinities and both zeros included. So it
is its own inverse, keeps NaN, infinity and finiteness, and negates a finite value. -/
def Obligations.NegFlipsSign : Prop :=
  ∀ x : Word, (neg x).getLsbD 31 = !x.getLsbD 31 ∧ (neg x).toNat % 2 ^ 31 = x.toNat % 2 ^ 31 ∧
    neg (neg x) = x ∧ isNaN (neg x) = isNaN x ∧ isInf (neg x) = isInf x ∧ isFinite (neg x) = isFinite x ∧
    (isFinite x = true → val (neg x) = -val x)

/-- R10: `round32` of a real below 2^128 less half a unit in the last place is a finite pattern nearest to it, with an
even fraction where another finite value is as near. -/
def Obligations.Round32IsNearestTiesToEven : Prop :=
  ∀ (p : Params) (r : Rat), |r| < 2 ^ 128 - 2 ^ 103 →
    isFinite (round32 p r) = true ∧
    ∀ y : Word, isFinite y = true →
      |r - val (round32 p r)| ≤ |r - val y| ∧
      (|r - val (round32 p r)| = |r - val y| → val y ≠ val (round32 p r) → (round32 p r).toNat % 2 = 0)

/-- R10: from 2^128 less half a unit in the last place on, `round32` is the infinity of the sign; `round32(0)` is +0.0; a
value that is exactly a nonzero binary32 value rounds to its own pattern. -/
def Obligations.Round32ExtremesAndExactness : Prop :=
  ∀ p : Params,
    (∀ r : Rat, 2 ^ 128 - 2 ^ 103 ≤ r → round32 p r = 0x7F800000#32) ∧
    (∀ r : Rat, r ≤ -(2 ^ 128 - 2 ^ 103) → round32 p r = 0xFF800000#32) ∧
    round32 p 0 = PZERO ∧
    (∀ x : Word, isFinite x = true → val x ≠ 0 → round32 p (val x) = x)

/-! ## The classifier -/

/-- R113: the three comparisons: what they are on a finite pattern, false on a NaN, an infinity big and near nothing, and
exactly one of small and big on every pattern that is not NaN. -/
def Obligations.ThresholdTestsPartition : Prop :=
  ∀ x : Word,
    (isFinite x = true →
      (small x = true ↔ |val x| < val EPS) ∧ (big x = true ↔ val EPS ≤ |val x|) ∧
      ∀ v : Int, v = -1 ∨ v = 0 ∨ v = 1 → (near x v = true ↔ |val x - v| < val EPS)) ∧
    (isNaN x = true → small x = false ∧ big x = false ∧ ∀ v : Int, near x v = false) ∧
    (isInf x = true → big x = true ∧ small x = false ∧ ∀ v : Int, near x v = false) ∧
    (isNaN x = false → big x = !small x)

/-- R113 read on patterns: the magnitude bits are below those of EPS for small, from EPS to infinity for big. -/
def Obligations.ThresholdsOnPatterns : Prop :=
  ∀ x : Word,
    (small x = true ↔ x.toNat % 2 ^ 31 < 0x3727C5AC) ∧
    (big x = true ↔ 0x3727C5AC ≤ x.toNat % 2 ^ 31 ∧ x.toNat % 2 ^ 31 ≤ 0x7F800000)

/-- R115 read on patterns: code 0 for a small entry; code 1 from 167 patterns below 1.0 to 83 above it; code 2 the same
about -1.0; no code elsewhere. -/
def Obligations.CodesOnPatterns : Prop :=
  ∀ x : Word,
    (codeOf x = some 0#2 ↔ x.toNat % 2 ^ 31 < 0x3727C5AC) ∧
    (codeOf x = some 1#2 ↔ 0x3F800000 - 167 ≤ x.toNat ∧ x.toNat ≤ 0x3F800000 + 83) ∧
    (codeOf x = some 2#2 ↔ 0xBF800000 - 167 ≤ x.toNat ∧ x.toNat ≤ 0xBF800000 + 83) ∧
    codeOf x ≠ some 3#2

/-- R111, R112: the branch of the decomposition by the pattern of M[0][2]: general below magnitude 1 and for NaN, gimbal
lock at and beyond 1 with az = +0.0 and ay = pi/2 of the sign. -/
def Obligations.EulerBranches : Prop :=
  ∀ (p : Params) (m : Mat3),
    let mag := m.m02.toNat % 2 ^ 31
    (mag < 0x3F800000 ∨ 0x7F800000 < mag →
      eulerXYZ p m = ⟨p.atan2_32 (neg m.m12) m.m22, p.asin32 m.m02, p.atan2_32 (neg m.m01) m.m00⟩) ∧
    (0x3F800000 ≤ mag ∧ mag ≤ 0x7F800000 ∧ m.m02.toNat < 2 ^ 31 →
      eulerXYZ p m = ⟨p.atan2_32 m.m21 m.m11, 0x3FC90FDB#32, 0x00000000#32⟩) ∧
    (0x3F800000 ≤ mag ∧ mag ≤ 0x7F800000 ∧ 2 ^ 31 ≤ m.m02.toNat →
      eulerXYZ p m = ⟨p.atan2_32 m.m21 m.m11, 0xBFC90FDB#32, 0x00000000#32⟩)

/-- R119: the ordered chain. Identity when all three angles are small; else AxisAligned when every entry has a code, with
the nine codes in row-major order; else SingleAxis when exactly one angle is big and the other two small, with that axis
and angle; else Euler. The triple is returned for every kind. -/
def Obligations.ClassifyIsOrderedChain : Prop :=
  ∀ (p : Params) (m : Mat3),
    let a := eulerXYZ p m
    let c := classify p m
    let angles : List (BitVec 2 × Word) := [(1#2, a.x), (2#2, a.y), (3#2, a.z)]
    let allSmall := ∀ q ∈ angles, small q.2 = true
    let allCodes := ∀ e ∈ m.entries, (codeOf e).isSome = true
    let only : BitVec 2 × Word → Prop := fun q =>
      q ∈ angles ∧ big q.2 = true ∧ ∀ q' ∈ angles, q'.1 ≠ q.1 → small q'.2 = true
    c.euler = a ∧
    (allSmall → c = ⟨.identity, a, none, 0#2, PZERO⟩) ∧
    (¬allSmall → allCodes → c.kind = .axisAligned ∧ c.axis = 0#2 ∧ c.angle = PZERO ∧
      ∃ k : Codes, c.codes = some k ∧
        [k.c1, k.c2, k.c3, k.c4, k.c5, k.c6, k.c7, k.c8, k.c9].map some = m.entries.map codeOf) ∧
    (¬allSmall → ¬allCodes → ∀ q, only q → c = ⟨.singleAxis, a, none, q.1, q.2⟩) ∧
    (¬allSmall → ¬allCodes → (∀ q, ¬only q) → c = ⟨.euler, a, none, 0#2, PZERO⟩)

/-- R123, R125: CLASSIFY writes the classification of IN_ROT into CLS_KIND, CLS_EULER, CLS_AXIS, CLS_ANGLE and CODES (the
nine codes, code k at bit 2k-2, for AxisAligned, else 0), sets DONE, and changes nothing else. -/
def Obligations.ClassifyWritesClassification : Prop :=
  decode 0x00000003#32 = .ok .classify ∧
  ∀ s : State,
    let c := classify Config.hw s.inRot
    ∃ v : BitVec 18,
      exec .classify s = .next { s with
        clsKind := kindCode c.kind, clsEuler := c.euler, clsAxis := c.axis, clsAngle := c.angle, codes := v,
        done := true, inflight := none } ∧
      (c.kind ≠ .axisAligned → v = 0#18) ∧
      (∀ k : Codes, c.codes = some k →
        v.toNat = k.c1.toNat + 4 * k.c2.toNat + 16 * k.c3.toNat + 64 * k.c4.toNat + 256 * k.c5.toNat
          + 1024 * k.c6.toNat + 4096 * k.c7.toNat + 16384 * k.c8.toNat + 65536 * k.c9.toNat)

/-- R253, V-CL-6: under I-TRIG T3 and T4 the zero matrix of the reset state is Identity, with the angles -0.0, +0.0,
-0.0. -/
def Obligations.ZeroMatrixIsIdentity : Prop :=
  ∀ p : Params, TrigT3 p → TrigT4 p →
    classify p State.reset.inRot = ⟨.identity, ⟨NZERO, PZERO, NZERO⟩, none, 0#2, PZERO⟩

/-- R169: the kind chosen has the shortest frame among the tests that match. -/
def Obligations.ClassifyIsMinimal : Prop :=
  ∀ (p : Params) (m : Mat3),
    let n := frameLen (classify p m).kind
    (isIdentity (eulerXYZ p m) = true → n ≤ 13) ∧
    ((axisAlignedCodes m).isSome = true → n ≤ 16) ∧
    ((singleAxis (eulerXYZ p m)).isSome = true → n ≤ 18) ∧
    n ≤ 25 ∧
    (TrigT3 p → TrigT4 p →
      m = ⟨0xBF800000#32, 0#32, 0#32, 0#32, 0xBF800000#32, 0#32, 0#32, 0#32, 0x3F800000#32⟩ → n = 16)

/-! ## ENCODE -/

/-- R164, R223: when the frame does not fit between WR_PTR and the end of the buffer (the sum unbounded), ENCODE sets
BOUNDS and DONE and changes nothing else, the buffer included. -/
def Obligations.EncodeBoundsFault : Prop :=
  ∀ s : State, Config.hw.bufBytes < s.wrPtr.toNat + frameLen (classify Config.hw s.inRot).kind →
    exec .encode s = .next { s with bounds := true, done := true, inflight := none }

/-- R165 to R167: when the frame fits, ENCODE writes exactly the frame's bytes at WR_PTR, advances WR_PTR by the frame
length, sets LEN to it and TAG to the kind, writes the classification, sets DONE, and changes nothing else. -/
def Obligations.EncodeWritesFrame : Prop :=
  decode 0x00000001#32 = .ok .encode ∧
  ∀ s : State,
    let c := classify Config.hw s.inRot
    let n := frameLen c.kind
    let w := s.wrPtr.toNat
    w + n ≤ Config.hw.bufBytes →
    ∃ t, exec .encode s = .next t ∧
      t = { s with
        buf := t.buf, wrPtr := t.wrPtr, len := t.len, tag := t.tag, codes := t.codes,
        clsKind := kindCode c.kind, clsEuler := c.euler, clsAxis := c.axis, clsAngle := c.angle,
        done := true, inflight := none } ∧
      t.wrPtr.toNat = w + n ∧ t.len.toNat = n ∧ t.tag.toNat = (kindCode c.kind).toNat ∧
      (∀ k : Codes, c.codes = some k → t.codes = codesToBits k) ∧ (c.codes = none → t.codes = 0#18) ∧
      (∀ k, k < n → some (readByte Config.hw t (w + k)) = (frameBytes s.inPos c)[k]?) ∧
      BufKeptOutside Config.hw s t w (w + n)

/-- R160, R161: the layout of a frame: its length is that of its kind; byte 0 is the kind; bytes 1 to 12 the position,
little-endian, bit for bit; then the kind's payload. -/
def Obligations.FrameLayout : Prop :=
  ∀ (p : Params) (m : Mat3) (pos : Vec3),
    let c := classify p m
    let f := frameBytes pos c
    let word : Nat → Nat := fun k =>
      (f.getD k 0#8).toNat + 2 ^ 8 * (f.getD (k + 1) 0#8).toNat + 2 ^ 16 * (f.getD (k + 2) 0#8).toNat
        + 2 ^ 24 * (f.getD (k + 3) 0#8).toNat
    f.length = frameLen c.kind ∧
    (f.getD 0 0#8).toNat = (kindCode c.kind).toNat ∧
    word 1 = pos.x.toNat ∧ word 5 = pos.y.toNat ∧ word 9 = pos.z.toNat ∧
    (c.kind = .euler → f.length = 25 ∧ word 13 = c.euler.x.toNat ∧ word 17 = c.euler.y.toNat ∧
      word 21 = c.euler.z.toNat) ∧
    (c.kind = .identity → f.length = 13) ∧
    (c.kind = .axisAligned → f.length = 16 ∧ ∃ k, c.codes = some k ∧ f.getD 13 0#8 = (pack k).b1 ∧
      f.getD 14 0#8 = (pack k).b2 ∧ f.getD 15 0#8 = (pack k).b3) ∧
    (c.kind = .singleAxis → f.length = 18 ∧ (f.getD 13 0#8).toNat = c.axis.toNat ∧ word 14 = c.angle.toNat)

/-- R168: two ENCODEs with equal IN_POS, IN_ROT and WR_PTR write equal bytes at equal places and leave equal results; the
states may differ in all else, but both fault or neither does. -/
def Obligations.EncodeDependsOnItsInputs : Prop :=
  ∀ s₁ s₂ t₁ t₂ : State,
    s₁.inPos = s₂.inPos → s₁.inRot = s₂.inRot → s₁.wrPtr = s₂.wrPtr →
    exec .encode s₁ = .next t₁ → exec .encode s₂ = .next t₂ →
    t₁.wrPtr = t₂.wrPtr ∧
    (Config.hw.bufBytes < s₁.wrPtr.toNat + frameLen (classify Config.hw s₁.inRot).kind →
      t₁.bounds = true ∧ t₂.bounds = true) ∧
    (s₁.wrPtr.toNat + frameLen (classify Config.hw s₁.inRot).kind ≤ Config.hw.bufBytes →
      t₁.len = t₂.len ∧ t₁.tag = t₂.tag ∧ ClsKept t₁ t₂ ∧ t₁.codes = t₂.codes ∧
      BufAgree Config.hw t₁ t₂ s₁.wrPtr.toNat
        (s₁.wrPtr.toNat + frameLen (classify Config.hw s₁.inRot).kind))

/-! ## DECODE -/

/-- R8, R65: a 4-byte read is the little-endian value of four buffer bytes, at any index. -/
def Obligations.MemReadIsLittleEndian : Prop :=
  ∀ (p : Params) (s : State) (a : Nat),
    (readWord p s a).toNat = (readByte p s a).toNat + 2 ^ 8 * (readByte p s (a + 1)).toNat
      + 2 ^ 16 * (readByte p s (a + 2)).toNat + 2 ^ 24 * (readByte p s (a + 3)).toNat

/-- R190, R191, R223: when the header, or the frame its tag announces, does not fit, DECODE sets BOUNDS and DONE and
changes nothing else: no MALFORMED, no output register. -/
def Obligations.DecodeBoundsFault : Prop :=
  ∀ s : State,
    (Config.hw.bufBytes < s.cursor.toNat + 13 ∨
      Config.hw.bufBytes < s.cursor.toNat + decodeLen (readByte Config.hw s s.cursor.toNat)) →
    exec .decode s = .next { s with bounds := true, done := true, inflight := none }

/-- R192, R196, R198: tag 1 and the undefined tags 4 to 255 give the position, the identity matrix and 13 bytes consumed;
an undefined tag sets MALFORMED. -/
def Obligations.DecodeIdentityAndUndefinedTags : Prop :=
  decode 0x00000002#32 = .ok .decode ∧
  ∀ s : State,
    let c := s.cursor.toNat
    let tag := readByte Config.hw s c
    c + 13 ≤ Config.hw.bufBytes → (tag = 1#8 ∨ 4 ≤ tag.toNat) →
    exec .decode s = .next { s with
      outPos := ⟨readWord Config.hw s (c + 1), readWord Config.hw s (c + 5), readWord Config.hw s (c + 9)⟩
      outRot := ⟨0x3F800000#32, 0#32, 0#32, 0#32, 0x3F800000#32, 0#32, 0#32, 0#32, 0x3F800000#32⟩
      len := 13#8, tag := tag, malformed := s.malformed || decide (4 ≤ tag.toNat), done := true, inflight := none }

/-- R193, R186: tag 2 gives the matrix of the nine lanes in row-major order, 0 as 0.0, 1 as 1.0, 2 as -1.0, 3 as 0.0 with
MALFORMED, and 16 bytes consumed; bits 5:0 of the third packed byte do not count. -/
def Obligations.DecodeAxisAlignedTag : Prop :=
  ∀ s : State,
    let c := s.cursor.toNat
    let b1 := (readByte Config.hw s (c + 13)).toNat
    let b2 := (readByte Config.hw s (c + 14)).toNat
    let b3 := (readByte Config.hw s (c + 15)).toNat
    let lanes : List Nat :=
      [b1 / 64, b1 / 16 % 4, b1 / 4 % 4, b1 % 4, b2 / 64, b2 / 16 % 4, b2 / 4 % 4, b2 % 4, b3 / 64]
    let value : Nat → Word := fun k => if k = 1 then 0x3F800000#32 else if k = 2 then 0xBF800000#32 else 0#32
    c + 16 ≤ Config.hw.bufBytes → readByte Config.hw s c = 2#8 →
    ∃ r : Mat3, r.entries = lanes.map value ∧
      exec .decode s = .next { s with
        outPos := ⟨readWord Config.hw s (c + 1), readWord Config.hw s (c + 5), readWord Config.hw s (c + 9)⟩
        outRot := r
        len := 16#8, tag := 2#8, malformed := s.malformed || lanes.any (· == 3), done := true, inflight := none }

/-- R195, R183, R198: tag 3 gives the rotation of the angle about axis 1, 2 or 3; any other axis byte gives the identity
matrix and MALFORMED; 18 bytes are consumed either way. -/
def Obligations.DecodeSingleAxisTag : Prop :=
  ∀ s : State,
    let c := s.cursor.toNat
    let axis := (readByte Config.hw s (c + 13)).toNat
    let θ := readWord Config.hw s (c + 14)
    let sn := Config.hw.sin32 θ
    let cs := Config.hw.cos32 θ
    let I : Word := 0x3F800000#32
    let O : Word := 0#32
    c + 18 ≤ Config.hw.bufBytes → readByte Config.hw s c = 3#8 →
    exec .decode s = .next { s with
      outPos := ⟨readWord Config.hw s (c + 1), readWord Config.hw s (c + 5), readWord Config.hw s (c + 9)⟩
      outRot := if axis = 1 then ⟨I, O, O, O, cs, neg sn, O, sn, cs⟩
        else if axis = 2 then ⟨cs, O, sn, O, I, O, neg sn, O, cs⟩
        else if axis = 3 then ⟨cs, neg sn, O, sn, cs, O, O, O, I⟩
        else ⟨I, O, O, O, I, O, O, O, I⟩
      len := 18#8, tag := 3#8, malformed := s.malformed || !(axis == 1 || axis == 2 || axis == 3),
      done := true, inflight := none }

/-- R194: tag 0 reads three angles and gives the Euler matrix of R185; 25 bytes are consumed and MALFORMED is not set. -/
def Obligations.DecodeEulerTag : Prop :=
  ∀ s : State,
    let c := s.cursor.toNat
    c + 25 ≤ Config.hw.bufBytes → readByte Config.hw s c = 0#8 →
    exec .decode s = .next { s with
      outPos := ⟨readWord Config.hw s (c + 1), readWord Config.hw s (c + 5), readWord Config.hw s (c + 9)⟩
      outRot := eulerMatrix Config.hw ⟨readWord Config.hw s (c + 13), readWord Config.hw s (c + 17),
        readWord Config.hw s (c + 21)⟩
      len := 25#8, tag := 0#8, done := true, inflight := none }

/-- R185, R184: an entry of the Euler matrix whose own sines and cosines are finite is Rx·Ry·Rz of R110 on their exact
values, rounded once, with sign flips of rounded products in M[0][1] and M[1][2], whatever the other sines and cosines
are; one that is not finite makes every entry that uses it CNAN, or its sign flip 0xFFC00000 in M[0][1] and M[1][2]. But
M[0][2] copies the sine of ay whatever it is. -/
def Obligations.EulerMatrixEntries : Prop :=
  ∀ (p : Params) (a : Vec3),
    let m := eulerMatrix p a
    let sx := p.sin32 a.x
    let cx := p.cos32 a.x
    let sy := p.sin32 a.y
    let cy := p.cos32 a.y
    let sz := p.sin32 a.z
    let cz := p.cos32 a.z
    let N : Word := 0x7FC00000#32
    let N' : Word := 0xFFC00000#32
    let fin : Word → Prop := fun w => isFinite w = true
    m.m02 = sy ∧
    (fin cy → fin cz → m.m00 = round32 p (val cy * val cz)) ∧
    (fin cy → fin sz → m.m01 = neg (round32 p (val cy * val sz))) ∧
    (fin sx → fin cy → m.m12 = neg (round32 p (val sx * val cy))) ∧
    (fin cx → fin cy → m.m22 = round32 p (val cx * val cy)) ∧
    (fin sx → fin cx → fin sy → fin sz → fin cz →
      m.m10 = round32 p (val sx * val sy * val cz + val cx * val sz) ∧
      m.m11 = round32 p (val cx * val cz - val sx * val sy * val sz) ∧
      m.m20 = round32 p (val sx * val sz - val cx * val sy * val cz) ∧
      m.m21 = round32 p (val sx * val cz + val cx * val sy * val sz)) ∧
    (isFinite sx = false → m.m10 = N ∧ m.m11 = N ∧ m.m12 = N' ∧ m.m20 = N ∧ m.m21 = N) ∧
    (isFinite cx = false → m.m10 = N ∧ m.m11 = N ∧ m.m20 = N ∧ m.m21 = N ∧ m.m22 = N) ∧
    (isFinite sy = false → m.m10 = N ∧ m.m11 = N ∧ m.m20 = N ∧ m.m21 = N) ∧
    (isFinite cy = false → m.m00 = N ∧ m.m01 = N' ∧ m.m12 = N' ∧ m.m22 = N) ∧
    (isFinite sz = false → m.m01 = N' ∧ m.m10 = N ∧ m.m11 = N ∧ m.m20 = N ∧ m.m21 = N) ∧
    (isFinite cz = false → m.m00 = N ∧ m.m10 = N ∧ m.m11 = N ∧ m.m20 = N ∧ m.m21 = N)

/-- R185 under I-TRIG T1, T2, T6: the Euler matrix of (θ, +0.0, +0.0) has, entry by entry, the values of the axis matrix of
θ about X. -/
def Obligations.EulerMatrixAgreesWithAxisX : Prop :=
  ∀ p : Params, TrigT1 p → TrigT2 p → TrigT6 p →
    ∀ θ : Word, isFinite θ = true → ∀ r : Mat3, axisMatrix p 1#8 θ = some r →
      (eulerMatrix p ⟨θ, PZERO, PZERO⟩).entries.map val = r.entries.map val

/-- R201: the outputs of DECODE are a function of CURSOR and the bytes of the frame: two states that agree on CURSOR and on
those bytes give the same OUT_POS, OUT_ROT, LEN, TAG and the same verdict on MALFORMED and BOUNDS. -/
def Obligations.DecodeDependsOnFrameAlone : Prop :=
  ∀ s₁ s₂ t₁ t₂ : State,
    let c := s₁.cursor.toNat
    let n := decodeLen (readByte Config.hw s₁ c)
    s₁.cursor = s₂.cursor → BufAgree Config.hw s₁ s₂ c (c + n) →
    exec .decode s₁ = .next t₁ → exec .decode s₂ = .next t₂ →
    (c + n ≤ Config.hw.bufBytes → OutKept t₁ t₂ ∧ t₁.len = t₂.len ∧ t₁.tag = t₂.tag) ∧
    (s₁.malformed = s₂.malformed → t₁.malformed = t₂.malformed) ∧ (s₁.bounds = s₂.bounds → t₁.bounds = t₂.bounds)

/-- R199: a DECODE at the place an ENCODE wrote its frame completes without BOUNDS or MALFORMED, consumes as many bytes as
were written, reports the kind as tag, gives the position bit for bit, and as rotation the identity matrix, the matrix
of the nine codes, the rotation of the encoded angle about its axis, or the Euler matrix of the encoded triple. It holds
for every choice of the parameters; the first clause says that the machine's two commands are its case at the
machine's own. -/
def Obligations.EncodeThenDecodeRoundTrip : Prop :=
  (∀ s : State, exec .encode s = .next (complete s (encodeRule Config.hw s)) ∧
    exec .decode s = .next (complete s (decodeRule Config.hw s))) ∧
  ∀ (p : Params) (s : State),
    let c := classify p s.inRot
    s.wrPtr.toNat + frameLen c.kind ≤ p.bufBytes →
    let t := complete s (encodeRule p s)
    let v := { t with cursor := s.wrPtr }
    let u := complete v (decodeRule p v)
    u.bounds = s.bounds ∧ u.malformed = s.malformed ∧
    u.outPos = s.inPos ∧ u.len = t.len ∧ u.len.toNat = frameLen c.kind ∧ u.tag = t.tag ∧
    (c.kind = .identity → u.outRot = identityMatrix) ∧
    (c.kind = .axisAligned → ∃ k, c.codes = some k ∧ u.outRot = codesMatrix k) ∧
    (c.kind = .singleAxis → some u.outRot = axisMatrix p (c.axis.zeroExtend 8) c.angle) ∧
    (c.kind = .euler → u.outRot = eulerMatrix p c.euler)

/-- R199, R186: for a matrix whose entries are exactly +0.0, 1.0 and -1.0, the nine codes exist and give the matrix back. -/
def Obligations.ExactMatrixSurvivesCodes : Prop :=
  ∀ m : Mat3, (∀ e ∈ m.entries, e = 0x00000000#32 ∨ e = 0x3F800000#32 ∨ e = 0xBF800000#32) →
    ∃ k, axisAlignedCodes m = some k ∧ codesMatrix k = m

/-! ## The invariant -/

/-- Every step keeps a legal state legal: the buffer's canonical form (R41), BUSY with the wait count (R43), nothing in
flight in reset (R250), LEN and TAG as R28, R29, R91 say, the CLS registers among themselves as R31, R32, R117 say.
(The canonical form and the wait count are the model's own, log 2 and log 4.) -/
def Obligations.StepKeepsLegalState : Prop := ∀ s t : State, Inv s → step s = .next t → Inv t

/-- The reset state is legal. -/
def Obligations.ResetStateIsLegal : Prop := Inv State.reset

/-! ## The host bus -/

/-- R62, R74: a write of 1, 2 or 4 bytes at an aligned index in the buffer, read back at once, gives the written bytes,
little-endian, and leaves every other byte alone; of an access over the end of the buffer the backed bytes are written
and read, the unbacked ones read 0. The host's turn is stated for every choice of `BUF_BYTES`; the first clause says that
an idle block's step is that turn. (Data of narrow accesses in the low bits: log 8.) -/
def Obligations.BufferWriteReadsBack : Prop :=
  (∀ s : State, s.inflight = none → step s = hostStep Config.hw s) ∧
  ∀ (p : Params) (s : State) (n i : Nat) (v : Word),
    s.resetAsserted = false → s.inflight = none → (n = 1 ∨ n = 2 ∨ n = 4) → i % n = 0 → i < p.bufBytes →
    s.host = [.write n (bufOff i) v, .read n (bufOff i)] →
    ∃ t w, hostStep p s = .next t ∧ hostStep p t = .next { t with host := [], busData := some w } ∧
      t = { s with buf := t.buf, host := [.read n (bufOff i)] } ∧
      (∀ k, k < n → i + k < p.bufBytes → (readByte p t (i + k)).toNat = v.toNat / 2 ^ (8 * k) % 256) ∧
      BufKeptOutside p s t i (min (i + n) p.bufBytes) ∧
      (∀ k, k < 4 →
        w.toNat / 2 ^ (8 * k) % 256 = if k < n ∧ i + k < p.bufBytes then v.toNat / 2 ^ (8 * k) % 256 else 0)

/-- R20, R63: a read-write register written by an idle block's host reads back what was written, its reserved bits 0, and
no other register changes. -/
def Obligations.RegisterWriteReadsBack : Prop :=
  ∀ (s : State) (r : Reg) (v : Word),
    s.resetAsserted = false → s.inflight = none → r.access = .rw →
    s.host = [.write 4 (regOff r) v, .read 4 (regOff r)] →
    ∃ t, core.run 2 s = .next t ∧
      t.busData = some (v &&& (if r = .ctrl then 0x00000001#32 else if r = .codes then 0x0003FFFF#32
        else if r = .packed then 0x00FFFFFF#32 else 0xFFFFFFFF#32)) ∧
      (∀ r', r' ≠ r → readReg Config.hw t r' = readReg Config.hw s r') ∧ BufKept Config.hw s t

/-- R20 to R39, R63, R67: what a 32-bit read of each register returns, register by register at its offset of R20, reserved
bits 0; the read changes nothing of the block. While a command is in flight the same holds of the five registers that
R260 allows. (The data register of the bus and the wait count are the model's own, log 8 and log 2.) -/
def Obligations.RegisterReadReturnsValue : Prop :=
  ∀ (s : State) (off v : Nat) (rest : List HostEvent),
    let at3 : Nat → Vec3 → List (Nat × Nat) := fun o a =>
      [(o, a.x.toNat), (o + 4, a.y.toNat), (o + 8, a.z.toNat)]
    let at9 : Nat → Mat3 → List (Nat × Nat) := fun o m =>
      [(o, m.m00.toNat), (o + 4, m.m01.toNat), (o + 8, m.m02.toNat), (o + 12, m.m10.toNat), (o + 16, m.m11.toNat),
       (o + 20, m.m12.toNat), (o + 24, m.m20.toNat), (o + 28, m.m21.toNat), (o + 32, m.m22.toNat)]
    let always : List (Nat × Nat) :=
      [(0x00, 0x41544301), (0x04, Config.hw.bufBytes), (0x08, s.ie.toNat),
       (0x0C, s.inflight.isSome.toNat + 2 * s.done.toNat + 4 * s.illegal.toNat + 8 * s.bounds.toNat
          + 16 * s.malformed.toNat), (0x10, 0)]
    let idle : List (Nat × Nat) :=
      [(0x14, s.wrPtr.toNat), (0x18, s.cursor.toNat), (0x1C, s.len.toNat), (0x20, s.tag.toNat),
       (0x24, s.clsKind.toNat), (0x28, s.clsAxis.toNat), (0x2C, s.clsAngle.toNat), (0x3C, s.codes.toNat),
       (0x40, s.packed.toNat)] ++ at3 0x30 s.clsEuler ++ at3 0x50 s.inPos ++ at9 0x60 s.inRot ++ at3 0x90 s.outPos
       ++ at9 0xA0 s.outRot
    s.resetAsserted = false → s.host = .read 4 (BitVec.ofNat 17 off) :: rest →
    (s.inflight = none → (off, v) ∈ always ++ idle →
      step s = .next { s with host := rest, busData := some (BitVec.ofNat 32 v) }) ∧
    (∀ n i, s.inflight = some i → s.wait = n + 1 → (off, v) ∈ always →
      step s = .next { s with host := rest, wait := n, busData := some (BitVec.ofNat 32 v) })

/-- R40, R61, R20: an idle block's host reads 0 at a reserved offset and above the buffer, and its writes there and to
read-only registers change nothing. The host's turn is stated for every choice of `BUF_BYTES`; the first clause says
that an idle block's step is that turn. -/
def Obligations.ReservedOffsetsInert : Prop :=
  ∀ (s : State) (n : Nat) (off : BitVec 17) (v : Word) (rest : List HostEvent),
    s.resetAsserted = false → s.inflight = none →
    step s = hostStep Config.hw s ∧
    ∀ p : Params,
      (off.toNat < 0x10000 → off.toNat % 4 = 0 →
        ((∀ r : Reg, r.offset = off.toNat → r.access = .ro) → s.host = .write 4 off v :: rest →
          hostStep p s = .next { s with host := rest }) ∧
        ((∀ r : Reg, r.offset ≠ off.toNat) → s.host = .read 4 off :: rest →
          hostStep p s = .next { s with host := rest, busData := some 0#32 })) ∧
      (0x10000 + p.bufBytes ≤ off.toNat → (n = 1 ∨ n = 2 ∨ n = 4) → off.toNat % n = 0 →
        (s.host = .write n off v :: rest → hostStep p s = .next { s with host := rest }) ∧
        (s.host = .read n off :: rest → hostStep p s = .next { s with host := rest, busData := some 0#32 }))

/-- R62 to R64: an idle block accepts exactly the accesses of 4 bytes at multiples of 4 anywhere, and of 1 byte and of 2
bytes at even offsets outside the register window; every other access is refused as a bus error. -/
def Obligations.BusErrorsExactlyUnacceptedAccesses : Prop :=
  ∀ (s : State) (n : Nat) (off : BitVec 17) (v : Word) (rest : List HostEvent),
    s.resetAsserted = false → s.inflight = none →
    (s.host = .read n off :: rest ∨ s.host = .write n off v :: rest) →
    (((n ≠ 1 ∧ n ≠ 2 ∧ n ≠ 4) ∨ off.toNat % n ≠ 0 ∨ (off.toNat < 0x10000 ∧ n ≠ 4)) →
      step s = .refused .busError) ∧
    ((n = 1 ∨ n = 2 ∨ n = 4) → off.toNat % n = 0 → (0x10000 ≤ off.toNat ∨ n = 4) → ∃ t, step s = .next t)

/-- R260: while a command is in flight the host may access ID, BUFSZ, CTRL, STATUS and CMD; an access to any other register
or to the buffer window is refused. -/
def Obligations.BusyAccessContract : Prop :=
  ∀ (s : State) (i : Instr) (n : Nat) (v : Word) (rest : List HostEvent),
    s.resetAsserted = false → s.inflight = some i → s.wait = n + 1 →
    (∀ r : Reg, r ∈ [Reg.id, .bufsz, .ctrl, .status, .cmd] →
      s.host = .read 4 (regOff r) :: rest ∨ s.host = .write 4 (regOff r) v :: rest →
      ∃ t, step s = .next t ∧ t.inflight = some i) ∧
    (∀ r : Reg, r ∉ [Reg.id, .bufsz, .ctrl, .status, .cmd] →
      s.host = .read 4 (regOff r) :: rest ∨ s.host = .write 4 (regOff r) v :: rest →
      step s = .refused .busyAccess) ∧
    (∀ b k : Nat, (b = 1 ∨ b = 2 ∨ b = 4) → k % b = 0 → k < Config.hw.bufBytes →
      s.host = .read b (bufOff k) :: rest ∨ s.host = .write b (bufOff k) v :: rest →
      step s = .refused .busyAccess)

/-- R24: a host write of v to STATUS clears each of bits 1 to 4 whose bit in v is 1 and leaves the others, BUSY included;
bits 31:5 read 0; no other register changes. -/
def Obligations.StatusWriteOneToClear : Prop :=
  ∀ (s : State) (v : Word) (rest : List HostEvent),
    s.resetAsserted = false → (s.inflight = none ∨ s.wait ≠ 0) → s.host = .write 4 0x0C#17 v :: rest →
    ∃ t, step s = .next t ∧ statusWord t = statusWord s &&& ~~~(v &&& 0x1E#32) ∧ statusWord t &&& 0xFFFFFFE0#32 = 0#32 ∧
      (∀ r, r ≠ .status → readReg Config.hw t r = readReg Config.hw s r) ∧ BufKept Config.hw s t

/-- R43, R44: BUSY is bit 0 of STATUS, 1 exactly while a command is in flight; IRQ is CTRL.IE AND STATUS.DONE, bits 0 and 1
of the two registers. -/
def Obligations.BusyAndIrqFollowRegisters : Prop :=
  ∀ (p : Params) (s : State),
    ((readReg p s .status).getLsbD 0 = true ↔ s.inflight ≠ none) ∧
    irq s = ((readReg p s .ctrl).getLsbD 0 && (readReg p s .status).getLsbD 1)

/-- R230: IRQ rises at a completion when IE is 1, and at the write that sets IE while DONE is 1; it falls at the write that
clears DONE. -/
def Obligations.IrqRisesAndFalls : Prop :=
  (∀ (i : Instr) (s t : State), exec i s = .next t → irq t = s.ie) ∧
  (∀ (s : State) (v : Word) (rest : List HostEvent), s.resetAsserted = false → s.inflight = none →
    (s.host = .write 4 0x08#17 v :: rest → ∃ t, step s = .next t ∧ irq t = (v.getLsbD 0 && s.done)) ∧
    (s.host = .write 4 0x0C#17 v :: rest → ∃ t, step s = .next t ∧ irq t = (irq s && !v.getLsbD 1)))

/-- R250: reset abandons the command in flight with none of its effects; when it is released, ID and BUFSZ read their
constants, every other register reads 0, nothing is in flight and IRQ is low; accesses in between are refused. The
pending actions, the last data read and the two draw counters are the model's own (log 4, log 6). -/
def Obligations.ResetAbandonsAndClears : Prop :=
  (∀ (s : State) (rest : List HostEvent), (s.resetAsserted = true ∨ s.inflight = none ∨ s.wait ≠ 0) →
    s.host = .resetAssert :: .resetRelease :: rest →
    core.run 2 s = .next { State.reset with gen := s.gen + 1, accepted := s.accepted, host := rest,
                                            busData := s.busData }) ∧
  (∀ (s : State) (n : Nat) (off : BitVec 17) (v : Word) (rest : List HostEvent), s.resetAsserted = true →
    (s.host = .read n off :: rest ∨ s.host = .write n off v :: rest) → step s = .refused .accessInReset) ∧
  (∀ (p : Params) (r : Reg), readReg p State.reset r =
    if r = .id then 0x41544301#32 else if r = .bufsz then BitVec.ofNat 32 p.bufBytes else 0#32) ∧
  State.reset.inflight = none ∧ irq State.reset = false

/-! ## Liveness -/

/-- R212, R270: with a command in flight, and the host doing only what R260 allows, the command completes: after as many
steps as are left to wait and one more, DONE is set and nothing is in flight. (LAT counted in steps: log 2.) -/
def Obligations.InFlightCommandCompletes : Prop :=
  ∀ (s : State) (i : Instr), s.resetAsserted = false → s.inflight = some i → (∀ e ∈ s.host, busySafe e) →
    ∃ t, core.run (s.wait + 1) s = .next t ∧ t.done = true ∧ t.inflight = none

/-- R86, R270: `RUN X` ends: an idle block given the command's word and a WAIT runs X. After acceptance, the polls that
read BUSY = 1, the completion and the last poll, the state is the one X's completion gives, with STATUS as the last data
read. (Latency and polls counted in steps: log 2, log 12.) -/
def Obligations.RunPseudoInstructionEnds : Prop :=
  ∀ (s : State) (i : Instr) (rest : List HostEvent),
    s.resetAsserted = false → s.inflight = none →
    s.host = expandLine Config.hw (.run i) ++ rest →
    ∃ u, exec i { s with host := rest, inflight := some i, wait := 0, accepted := s.accepted + 1 } = .next u ∧
      core.run (Config.hw.lat s.accepted + 3) s = .next { u with busData := some (statusWord u) } ∧
      (statusWord u).getLsbD 0 = false
end

