-- ==== Sys2Proof/Laws/Bits.lean ====
section
/-! SUPPORT. Bit strings as numbers, and the decoder by the number a word is. -/

namespace Sys2Proof

/-- A concatenation as a number: the left part counts in units of the right part's size. -/
theorem append_toNat {a b : Nat} (x : BitVec a) (y : BitVec b) : (x ++ y).toNat = x.toNat * 2 ^ b + y.toNat := by
  rw [BitVec.toNat_append, ← Nat.shiftLeft_add_eq_or_of_lt y.isLt, Nat.shiftLeft_eq]

/-- R80: RSV is 0 exactly for the words below 256. -/
theorem splitWord_rsvZero (w : Word) : (splitWord w).rsvZero = true ↔ w.toNat < 256 := by
  have hw := w.isLt
  simp only [splitWord, CommandWord.rsvZero, beq_iff_eq, ← BitVec.toNat_inj, BitVec.extractLsb'_toNat,
    BitVec.toNat_ofNat, Nat.shiftRight_eq_div_pow]
  omega

/-- R80: with RSV 0 the opcode field is the whole number. -/
theorem splitWord_op_toNat {w : Word} (h : w.toNat < 256) : (splitWord w).op.toNat = w.toNat := by
  simp [splitWord, BitVec.extractLsb'_toNat]
  omega

/-- A table word of 32 bits is the word itself (log 14). -/
theorem tableWord_toNat (w : Word) : tableWord 32 w.toNat = w := by
  apply BitVec.eq_of_toNat_eq
  have := w.isLt
  simp [tableWord]
  omega

end Sys2Proof
end

