-- ==== Sys2Proof/Laws/Flags.lean ====
section
/-! SUPPORT. STATUS and CTRL bit by bit (R23, R24), so that no proof takes their concatenations apart again. -/

namespace Sys2Proof.Machine

/-- STATUS from its five bits (R24). -/
def statusBits (busy done illegal bounds malformed : Bool) : Word :=
  0#27 ++ BitVec.ofBool malformed ++ BitVec.ofBool bounds ++ BitVec.ofBool illegal ++ BitVec.ofBool done
    ++ BitVec.ofBool busy

theorem statusWord_eq (s : State) : statusWord s = statusBits s.busy s.done s.illegal s.bounds s.malformed := rfl

@[simp] theorem statusBits_busy (b d i o m : Bool) : (statusBits b d i o m).getLsbD 0 = b := by
  revert b d i o m; decide

@[simp] theorem statusBits_done (b d i o m : Bool) : (statusBits b d i o m).getLsbD 1 = d := by
  revert b d i o m; decide

@[simp] theorem statusBits_illegal (b d i o m : Bool) : (statusBits b d i o m).getLsbD 2 = i := by
  revert b d i o m; decide

@[simp] theorem statusBits_bounds (b d i o m : Bool) : (statusBits b d i o m).getLsbD 3 = o := by
  revert b d i o m; decide

@[simp] theorem statusBits_malformed (b d i o m : Bool) : (statusBits b d i o m).getLsbD 4 = m := by
  revert b d i o m; decide

/-- STATUS reads 0 exactly when its five bits are 0 (R24). -/
theorem statusBits_eq_zero (b d i o m : Bool) :
    statusBits b d i o m = 0#32 ↔ b = false ∧ d = false ∧ i = false ∧ o = false ∧ m = false := by
  revert b d i o m; decide

/-- Write one to clear on the register view (R24): bits 1 to 4 of v clear their flags, BUSY stays. -/
theorem statusBits_ack (b d i o m : Bool) (v : Word) :
    statusBits b (d && !v.getLsbD 1) (i && !v.getLsbD 2) (o && !v.getLsbD 3) (m && !v.getLsbD 4)
      = statusBits b d i o m &&& ~~~(v &&& 0x1E#32) := by
  have h : v &&& 0x1E#32
      = statusBits false (v.getLsbD 1) (v.getLsbD 2) (v.getLsbD 3) (v.getLsbD 4) := by
    apply BitVec.eq_of_getLsbD_eq
    intro k hk
    have hbits : ∀ (d i o m : Bool) (k : Fin 32), (statusBits false d i o m).getLsbD k
        = (if k.val = 1 then d else if k.val = 2 then i else if k.val = 3 then o else if k.val = 4 then m else false) := by
      decide
    have hmask : ∀ k : Fin 32, (0x1E#32).getLsbD k = decide (k.val = 1 ∨ k.val = 2 ∨ k.val = 3 ∨ k.val = 4) := by
      decide
    rw [BitVec.getLsbD_and, hmask ⟨k, hk⟩, hbits _ _ _ _ ⟨k, hk⟩]
    by_cases h1 : k = 1
    · subst h1; simp
    by_cases h2 : k = 2
    · subst h2; simp
    by_cases h3 : k = 3
    · subst h3; simp
    by_cases h4 : k = 4
    · subst h4; simp
    simp [h1, h2, h3, h4]
  rw [h]
  generalize v.getLsbD 1 = v1
  generalize v.getLsbD 2 = v2
  generalize v.getLsbD 3 = v3
  generalize v.getLsbD 4 = v4
  revert b d i o m v1 v2 v3 v4
  decide

/-- Bits 31:5 of STATUS read 0 (R24). -/
theorem statusBits_reserved (b d i o m : Bool) : statusBits b d i o m &&& 0xFFFFFFE0#32 = 0#32 := by
  revert b d i o m; decide

@[simp] theorem ctrlWord_ie (s : State) : (ctrlWord s).getLsbD 0 = s.ie := by
  unfold ctrlWord
  cases s.ie <;> decide

end Sys2Proof.Machine
end

