-- ==== Sys2Proof/Laws/Memory.lean ====
section
/-! SUPPORT. The laws of the wire buffer (R74): what a write changes, and that every operation keeps the canonical form. -/

namespace Sys2Proof.Machine

/-! ## Reading after one operation -/

theorem Memory.find_remove (m : Memory) (i j : Nat) :
    Memory.find (Memory.remove m i) j = if i = j then none else Memory.find m j := by
  induction m with
  | nil => simp [Memory.remove, Memory.find]
  | cons c m ih =>
    obtain ⟨a, b⟩ := c
    by_cases ha : a = i
    · simp only [Memory.remove, if_pos ha, ih, Memory.find]
      split
      · rfl
      · rw [if_neg (by omega)]
    · simp only [Memory.remove, if_neg ha, Memory.find, ih]
      by_cases haj : a = j
      · rw [if_pos haj, if_pos haj, if_neg (by omega)]
      · rw [if_neg haj, if_neg haj]

theorem Memory.find_insert (m : Memory) (i j : Nat) (v : Byte) :
    Memory.find (Memory.insert m i v) j = if i = j then some v else Memory.find m j := by
  induction m with
  | nil => simp [Memory.insert, Memory.find]
  | cons c m ih =>
    obtain ⟨a, b⟩ := c
    by_cases hlt : i < a
    · simp [Memory.insert, hlt, Memory.find]
    · by_cases ha : a = i
      · subst ha
        by_cases haj : a = j <;> simp [Memory.insert, Memory.find, haj]
      · simp only [Memory.insert, if_neg hlt, if_neg ha, Memory.find, ih]
        by_cases haj : a = j
        · rw [if_pos haj, if_pos haj, if_neg (by omega)]
        · rw [if_neg haj, if_neg haj]

/-- A byte reads as what was last written to it, and a write leaves every other byte alone (R74). -/
theorem Memory.read_write (draw : Nat → Byte) (m : Memory) (i j : Nat) (v : Byte) :
    Memory.read draw (Memory.write draw m i v) j = if i = j then v else Memory.read draw m j := by
  unfold Memory.write Memory.read
  by_cases hv : v = draw i
  · rw [if_pos hv, Memory.find_remove]
    by_cases hij : i = j
    · subst hij; simp [hv]
    · simp [hij]
  · rw [if_neg hv, Memory.find_insert]
    by_cases hij : i = j <;> simp [hij]

/-- What a run of bytes written from index a on reads as (R165): the written byte inside, the earlier byte outside. -/
theorem Memory.read_writeList (draw : Nat → Byte) (l : List Byte) :
    ∀ (m : Memory) (a j : Nat),
      Memory.read draw (Memory.writeList draw m a l) j
        = if a ≤ j then (l[j - a]?).getD (Memory.read draw m j) else Memory.read draw m j := by
  induction l with
  | nil => intro m a j; simp [Memory.writeList]
  | cons v vs ih =>
    intro m a j
    rw [Memory.writeList, ih, Memory.read_write]
    by_cases haj : a = j
    · subst haj; simp
    · rw [if_neg haj]
      by_cases hle : a + 1 ≤ j
      · rw [if_pos hle, if_pos (show a ≤ j by omega)]
        have : j - a = (j - (a + 1)) + 1 := by omega
        rw [this, List.getElem?_cons_succ]
      · rw [if_neg hle, if_neg (show ¬a ≤ j by omega)]

/-- One buffer byte written (R8). -/
theorem readByte_writeByte (p : Params) (s : State) (i j : Nat) (v : Byte) :
    readByte p (writeByte p s i v) j = if i = j then v else readByte p s j :=
  Memory.read_write _ _ _ _ _

/-- A run of buffer bytes written (R165). -/
theorem readByte_writeBytes (p : Params) (s : State) (a j : Nat) (l : List Byte) :
    readByte p (writeBytes p s a l) j = if a ≤ j then (l[j - a]?).getD (readByte p s j) else readByte p s j :=
  Memory.read_writeList _ _ _ _ _

/-- Two states with the same buffer and the same draws read alike. -/
theorem readByte_congr (p : Params) {s t : State} (hb : t.buf = s.buf) (hg : t.gen = s.gen) (i : Nat) :
    readByte p t i = readByte p s i := by rw [readByte, readByte, hb, hg]

/-! ## The canonical form -/

theorem Memory.wfFrom_cons (draw : Nat → Byte) (size lo a : Nat) (b : Byte) (m : Memory) :
    Memory.wfFrom draw size lo ((a, b) :: m) = true
      ↔ lo ≤ a ∧ a < size ∧ b ≠ draw a ∧ Memory.wfFrom draw size (a + 1) m = true := by
  simp [Memory.wfFrom, and_assoc]

theorem Memory.wfFrom_mono (draw : Nat → Byte) (size : Nat) {m : Memory} {lo lo' : Nat} (h : lo' ≤ lo)
    (hm : Memory.wfFrom draw size lo m = true) : Memory.wfFrom draw size lo' m = true := by
  cases m with
  | nil => rfl
  | cons c m =>
    obtain ⟨a, b⟩ := c
    rw [Memory.wfFrom_cons] at hm ⊢
    exact ⟨by omega, hm.2.1, hm.2.2.1, hm.2.2.2⟩

theorem Memory.wfFrom_remove (draw : Nat → Byte) (size : Nat) (i : Nat) :
    ∀ (m : Memory) (lo : Nat), Memory.wfFrom draw size lo m = true →
      Memory.wfFrom draw size lo (Memory.remove m i) = true := by
  intro m
  induction m with
  | nil => intro lo _; rfl
  | cons c m ih =>
    obtain ⟨a, b⟩ := c
    intro lo hm
    rw [Memory.wfFrom_cons] at hm
    by_cases ha : a = i
    · rw [Memory.remove, if_pos ha]
      exact Memory.wfFrom_mono draw size (by omega) (ih (a + 1) hm.2.2.2)
    · rw [Memory.remove, if_neg ha, Memory.wfFrom_cons]
      exact ⟨hm.1, hm.2.1, hm.2.2.1, ih (a + 1) hm.2.2.2⟩

theorem Memory.wfFrom_insert (draw : Nat → Byte) (size : Nat) (i : Nat) (v : Byte) (hi : i < size)
    (hv : v ≠ draw i) :
    ∀ (m : Memory) (lo : Nat), lo ≤ i → Memory.wfFrom draw size lo m = true →
      Memory.wfFrom draw size lo (Memory.insert m i v) = true := by
  intro m
  induction m with
  | nil =>
    intro lo hlo _
    rw [Memory.insert, Memory.wfFrom_cons]
    exact ⟨hlo, hi, hv, rfl⟩
  | cons c m ih =>
    obtain ⟨a, b⟩ := c
    intro lo hlo hm
    rw [Memory.wfFrom_cons] at hm
    by_cases hlt : i < a
    · rw [Memory.insert, if_pos hlt, Memory.wfFrom_cons, Memory.wfFrom_cons]
      exact ⟨hlo, hi, hv, by omega, hm.2.1, hm.2.2.1, hm.2.2.2⟩
    · by_cases ha : a = i
      · subst ha
        rw [Memory.insert, if_neg hlt, if_pos rfl, Memory.wfFrom_cons]
        exact ⟨hlo, hi, hv, hm.2.2.2⟩
      · rw [Memory.insert, if_neg hlt, if_neg ha, Memory.wfFrom_cons]
        exact ⟨hm.1, hm.2.1, hm.2.2.1, ih (a + 1) (by omega) hm.2.2.2⟩

theorem Memory.wfFrom_write (draw : Nat → Byte) (size : Nat) (m : Memory) (i : Nat) (v : Byte) (hi : i < size)
    (hm : Memory.wfFrom draw size 0 m = true) : Memory.wfFrom draw size 0 (Memory.write draw m i v) = true := by
  unfold Memory.write
  split
  · exact Memory.wfFrom_remove draw size i m 0 hm
  · exact Memory.wfFrom_insert draw size i v hi ‹_› m 0 (Nat.zero_le _) hm

theorem Memory.wfFrom_writeList (draw : Nat → Byte) (size : Nat) (l : List Byte) :
    ∀ (m : Memory) (a : Nat), a + l.length ≤ size → Memory.wfFrom draw size 0 m = true →
      Memory.wfFrom draw size 0 (Memory.writeList draw m a l) = true := by
  induction l with
  | nil => intro m a _ hm; exact hm
  | cons v vs ih =>
    intro m a ha hm
    rw [List.length_cons] at ha
    exact ih _ (a + 1) (by omega) (Memory.wfFrom_write draw size m a v (by omega) hm)

/-- A byte written inside the buffer keeps the canonical form. -/
theorem Memory.wf_writeByte (p : Params) (s : State) (i : Nat) (v : Byte) (hi : i < p.bufBytes)
    (h : Memory.wf p s.gen s.buf = true) : Memory.wf p s.gen (writeByte p s i v).buf = true :=
  Memory.wfFrom_write _ _ _ _ _ hi h

/-- A run of bytes written inside the buffer keeps the canonical form. -/
theorem Memory.wf_writeBytes (p : Params) (s : State) (a : Nat) (l : List Byte) (ha : a + l.length ≤ p.bufBytes)
    (h : Memory.wf p s.gen s.buf = true) : Memory.wf p s.gen (writeBytes p s a l).buf = true :=
  Memory.wfFrom_writeList _ _ _ _ _ ha h

/-- An empty run of bytes, which may stand past the end of the buffer, writes nothing. -/
theorem writeBytes_nil (p : Params) (s : State) (a : Nat) : writeBytes p s a [] = s := rfl

/-- After reset nothing is listed, in every generation of draws (R251). -/
theorem Memory.wf_reset (p : Params) (g : Nat) : Memory.wf p g State.reset.buf = true := rfl

end Sys2Proof.Machine
end

