-- ==== Sys2Proof/Laws/State.lean ====
section
/-! SUPPORT. One lemma per field per named update of the state, so that no later proof unfolds a record update. -/

namespace Sys2Proof.Machine

/-! R8: one buffer byte and nothing else. -/

@[simp] theorem writeByte_ie (p : Params) (s : State) (i : Nat) (v : Byte) : (writeByte p s i v).ie = s.ie := rfl
@[simp] theorem writeByte_done (p : Params) (s : State) (i : Nat) (v : Byte) : (writeByte p s i v).done = s.done := rfl
@[simp] theorem writeByte_illegal (p : Params) (s : State) (i : Nat) (v : Byte) : (writeByte p s i v).illegal = s.illegal := rfl
@[simp] theorem writeByte_bounds (p : Params) (s : State) (i : Nat) (v : Byte) : (writeByte p s i v).bounds = s.bounds := rfl
@[simp] theorem writeByte_malformed (p : Params) (s : State) (i : Nat) (v : Byte) : (writeByte p s i v).malformed = s.malformed := rfl
@[simp] theorem writeByte_wrPtr (p : Params) (s : State) (i : Nat) (v : Byte) : (writeByte p s i v).wrPtr = s.wrPtr := rfl
@[simp] theorem writeByte_cursor (p : Params) (s : State) (i : Nat) (v : Byte) : (writeByte p s i v).cursor = s.cursor := rfl
@[simp] theorem writeByte_len (p : Params) (s : State) (i : Nat) (v : Byte) : (writeByte p s i v).len = s.len := rfl
@[simp] theorem writeByte_tag (p : Params) (s : State) (i : Nat) (v : Byte) : (writeByte p s i v).tag = s.tag := rfl
@[simp] theorem writeByte_clsKind (p : Params) (s : State) (i : Nat) (v : Byte) : (writeByte p s i v).clsKind = s.clsKind := rfl
@[simp] theorem writeByte_clsAxis (p : Params) (s : State) (i : Nat) (v : Byte) : (writeByte p s i v).clsAxis = s.clsAxis := rfl
@[simp] theorem writeByte_clsAngle (p : Params) (s : State) (i : Nat) (v : Byte) : (writeByte p s i v).clsAngle = s.clsAngle := rfl
@[simp] theorem writeByte_clsEuler (p : Params) (s : State) (i : Nat) (v : Byte) : (writeByte p s i v).clsEuler = s.clsEuler := rfl
@[simp] theorem writeByte_codes (p : Params) (s : State) (i : Nat) (v : Byte) : (writeByte p s i v).codes = s.codes := rfl
@[simp] theorem writeByte_packed (p : Params) (s : State) (i : Nat) (v : Byte) : (writeByte p s i v).packed = s.packed := rfl
@[simp] theorem writeByte_inPos (p : Params) (s : State) (i : Nat) (v : Byte) : (writeByte p s i v).inPos = s.inPos := rfl
@[simp] theorem writeByte_inRot (p : Params) (s : State) (i : Nat) (v : Byte) : (writeByte p s i v).inRot = s.inRot := rfl
@[simp] theorem writeByte_outPos (p : Params) (s : State) (i : Nat) (v : Byte) : (writeByte p s i v).outPos = s.outPos := rfl
@[simp] theorem writeByte_outRot (p : Params) (s : State) (i : Nat) (v : Byte) : (writeByte p s i v).outRot = s.outRot := rfl
@[simp] theorem writeByte_buf (p : Params) (s : State) (i : Nat) (v : Byte) : (writeByte p s i v).buf = Memory.write (p.resetByte s.gen) s.buf i v := rfl
@[simp] theorem writeByte_inflight (p : Params) (s : State) (i : Nat) (v : Byte) : (writeByte p s i v).inflight = s.inflight := rfl
@[simp] theorem writeByte_resetAsserted (p : Params) (s : State) (i : Nat) (v : Byte) : (writeByte p s i v).resetAsserted = s.resetAsserted := rfl
@[simp] theorem writeByte_gen (p : Params) (s : State) (i : Nat) (v : Byte) : (writeByte p s i v).gen = s.gen := rfl
@[simp] theorem writeByte_accepted (p : Params) (s : State) (i : Nat) (v : Byte) : (writeByte p s i v).accepted = s.accepted := rfl
@[simp] theorem writeByte_wait (p : Params) (s : State) (i : Nat) (v : Byte) : (writeByte p s i v).wait = s.wait := rfl
@[simp] theorem writeByte_host (p : Params) (s : State) (i : Nat) (v : Byte) : (writeByte p s i v).host = s.host := rfl
@[simp] theorem writeByte_busData (p : Params) (s : State) (i : Nat) (v : Byte) : (writeByte p s i v).busData = s.busData := rfl

/-! R165: consecutive buffer bytes and nothing else. -/

@[simp] theorem writeBytes_ie (p : Params) (s : State) (a : Nat) (l : List Byte) : (writeBytes p s a l).ie = s.ie := rfl
@[simp] theorem writeBytes_done (p : Params) (s : State) (a : Nat) (l : List Byte) : (writeBytes p s a l).done = s.done := rfl
@[simp] theorem writeBytes_illegal (p : Params) (s : State) (a : Nat) (l : List Byte) : (writeBytes p s a l).illegal = s.illegal := rfl
@[simp] theorem writeBytes_bounds (p : Params) (s : State) (a : Nat) (l : List Byte) : (writeBytes p s a l).bounds = s.bounds := rfl
@[simp] theorem writeBytes_malformed (p : Params) (s : State) (a : Nat) (l : List Byte) : (writeBytes p s a l).malformed = s.malformed := rfl
@[simp] theorem writeBytes_wrPtr (p : Params) (s : State) (a : Nat) (l : List Byte) : (writeBytes p s a l).wrPtr = s.wrPtr := rfl
@[simp] theorem writeBytes_cursor (p : Params) (s : State) (a : Nat) (l : List Byte) : (writeBytes p s a l).cursor = s.cursor := rfl
@[simp] theorem writeBytes_len (p : Params) (s : State) (a : Nat) (l : List Byte) : (writeBytes p s a l).len = s.len := rfl
@[simp] theorem writeBytes_tag (p : Params) (s : State) (a : Nat) (l : List Byte) : (writeBytes p s a l).tag = s.tag := rfl
@[simp] theorem writeBytes_clsKind (p : Params) (s : State) (a : Nat) (l : List Byte) : (writeBytes p s a l).clsKind = s.clsKind := rfl
@[simp] theorem writeBytes_clsAxis (p : Params) (s : State) (a : Nat) (l : List Byte) : (writeBytes p s a l).clsAxis = s.clsAxis := rfl
@[simp] theorem writeBytes_clsAngle (p : Params) (s : State) (a : Nat) (l : List Byte) : (writeBytes p s a l).clsAngle = s.clsAngle := rfl
@[simp] theorem writeBytes_clsEuler (p : Params) (s : State) (a : Nat) (l : List Byte) : (writeBytes p s a l).clsEuler = s.clsEuler := rfl
@[simp] theorem writeBytes_codes (p : Params) (s : State) (a : Nat) (l : List Byte) : (writeBytes p s a l).codes = s.codes := rfl
@[simp] theorem writeBytes_packed (p : Params) (s : State) (a : Nat) (l : List Byte) : (writeBytes p s a l).packed = s.packed := rfl
@[simp] theorem writeBytes_inPos (p : Params) (s : State) (a : Nat) (l : List Byte) : (writeBytes p s a l).inPos = s.inPos := rfl
@[simp] theorem writeBytes_inRot (p : Params) (s : State) (a : Nat) (l : List Byte) : (writeBytes p s a l).inRot = s.inRot := rfl
@[simp] theorem writeBytes_outPos (p : Params) (s : State) (a : Nat) (l : List Byte) : (writeBytes p s a l).outPos = s.outPos := rfl
@[simp] theorem writeBytes_outRot (p : Params) (s : State) (a : Nat) (l : List Byte) : (writeBytes p s a l).outRot = s.outRot := rfl
@[simp] theorem writeBytes_buf (p : Params) (s : State) (a : Nat) (l : List Byte) : (writeBytes p s a l).buf = Memory.writeList (p.resetByte s.gen) s.buf a l := rfl
@[simp] theorem writeBytes_inflight (p : Params) (s : State) (a : Nat) (l : List Byte) : (writeBytes p s a l).inflight = s.inflight := rfl
@[simp] theorem writeBytes_resetAsserted (p : Params) (s : State) (a : Nat) (l : List Byte) : (writeBytes p s a l).resetAsserted = s.resetAsserted := rfl
@[simp] theorem writeBytes_gen (p : Params) (s : State) (a : Nat) (l : List Byte) : (writeBytes p s a l).gen = s.gen := rfl
@[simp] theorem writeBytes_accepted (p : Params) (s : State) (a : Nat) (l : List Byte) : (writeBytes p s a l).accepted = s.accepted := rfl
@[simp] theorem writeBytes_wait (p : Params) (s : State) (a : Nat) (l : List Byte) : (writeBytes p s a l).wait = s.wait := rfl
@[simp] theorem writeBytes_host (p : Params) (s : State) (a : Nat) (l : List Byte) : (writeBytes p s a l).host = s.host := rfl
@[simp] theorem writeBytes_busData (p : Params) (s : State) (a : Nat) (l : List Byte) : (writeBytes p s a l).busData = s.busData := rfl

/-! R212: a rule that finished. -/

@[simp] theorem complete_finished_ie (s t : State) : (complete s (.finished t)).ie = t.ie := rfl
@[simp] theorem complete_finished_done (s t : State) : (complete s (.finished t)).done = true := rfl
@[simp] theorem complete_finished_illegal (s t : State) : (complete s (.finished t)).illegal = t.illegal := rfl
@[simp] theorem complete_finished_bounds (s t : State) : (complete s (.finished t)).bounds = t.bounds := rfl
@[simp] theorem complete_finished_malformed (s t : State) : (complete s (.finished t)).malformed = t.malformed := rfl
@[simp] theorem complete_finished_wrPtr (s t : State) : (complete s (.finished t)).wrPtr = t.wrPtr := rfl
@[simp] theorem complete_finished_cursor (s t : State) : (complete s (.finished t)).cursor = t.cursor := rfl
@[simp] theorem complete_finished_len (s t : State) : (complete s (.finished t)).len = t.len := rfl
@[simp] theorem complete_finished_tag (s t : State) : (complete s (.finished t)).tag = t.tag := rfl
@[simp] theorem complete_finished_clsKind (s t : State) : (complete s (.finished t)).clsKind = t.clsKind := rfl
@[simp] theorem complete_finished_clsAxis (s t : State) : (complete s (.finished t)).clsAxis = t.clsAxis := rfl
@[simp] theorem complete_finished_clsAngle (s t : State) : (complete s (.finished t)).clsAngle = t.clsAngle := rfl
@[simp] theorem complete_finished_clsEuler (s t : State) : (complete s (.finished t)).clsEuler = t.clsEuler := rfl
@[simp] theorem complete_finished_codes (s t : State) : (complete s (.finished t)).codes = t.codes := rfl
@[simp] theorem complete_finished_packed (s t : State) : (complete s (.finished t)).packed = t.packed := rfl
@[simp] theorem complete_finished_inPos (s t : State) : (complete s (.finished t)).inPos = t.inPos := rfl
@[simp] theorem complete_finished_inRot (s t : State) : (complete s (.finished t)).inRot = t.inRot := rfl
@[simp] theorem complete_finished_outPos (s t : State) : (complete s (.finished t)).outPos = t.outPos := rfl
@[simp] theorem complete_finished_outRot (s t : State) : (complete s (.finished t)).outRot = t.outRot := rfl
@[simp] theorem complete_finished_buf (s t : State) : (complete s (.finished t)).buf = t.buf := rfl
@[simp] theorem complete_finished_inflight (s t : State) : (complete s (.finished t)).inflight = none := rfl
@[simp] theorem complete_finished_resetAsserted (s t : State) : (complete s (.finished t)).resetAsserted = t.resetAsserted := rfl
@[simp] theorem complete_finished_gen (s t : State) : (complete s (.finished t)).gen = t.gen := rfl
@[simp] theorem complete_finished_accepted (s t : State) : (complete s (.finished t)).accepted = t.accepted := rfl
@[simp] theorem complete_finished_wait (s t : State) : (complete s (.finished t)).wait = t.wait := rfl
@[simp] theorem complete_finished_host (s t : State) : (complete s (.finished t)).host = t.host := rfl
@[simp] theorem complete_finished_busData (s t : State) : (complete s (.finished t)).busData = t.busData := rfl

/-! R222: a rule that raised BOUNDS. -/

@[simp] theorem complete_raised_ie (s : State) : (complete s .raisedBounds).ie = s.ie := rfl
@[simp] theorem complete_raised_done (s : State) : (complete s .raisedBounds).done = true := rfl
@[simp] theorem complete_raised_illegal (s : State) : (complete s .raisedBounds).illegal = s.illegal := rfl
@[simp] theorem complete_raised_bounds (s : State) : (complete s .raisedBounds).bounds = true := rfl
@[simp] theorem complete_raised_malformed (s : State) : (complete s .raisedBounds).malformed = s.malformed := rfl
@[simp] theorem complete_raised_wrPtr (s : State) : (complete s .raisedBounds).wrPtr = s.wrPtr := rfl
@[simp] theorem complete_raised_cursor (s : State) : (complete s .raisedBounds).cursor = s.cursor := rfl
@[simp] theorem complete_raised_len (s : State) : (complete s .raisedBounds).len = s.len := rfl
@[simp] theorem complete_raised_tag (s : State) : (complete s .raisedBounds).tag = s.tag := rfl
@[simp] theorem complete_raised_clsKind (s : State) : (complete s .raisedBounds).clsKind = s.clsKind := rfl
@[simp] theorem complete_raised_clsAxis (s : State) : (complete s .raisedBounds).clsAxis = s.clsAxis := rfl
@[simp] theorem complete_raised_clsAngle (s : State) : (complete s .raisedBounds).clsAngle = s.clsAngle := rfl
@[simp] theorem complete_raised_clsEuler (s : State) : (complete s .raisedBounds).clsEuler = s.clsEuler := rfl
@[simp] theorem complete_raised_codes (s : State) : (complete s .raisedBounds).codes = s.codes := rfl
@[simp] theorem complete_raised_packed (s : State) : (complete s .raisedBounds).packed = s.packed := rfl
@[simp] theorem complete_raised_inPos (s : State) : (complete s .raisedBounds).inPos = s.inPos := rfl
@[simp] theorem complete_raised_inRot (s : State) : (complete s .raisedBounds).inRot = s.inRot := rfl
@[simp] theorem complete_raised_outPos (s : State) : (complete s .raisedBounds).outPos = s.outPos := rfl
@[simp] theorem complete_raised_outRot (s : State) : (complete s .raisedBounds).outRot = s.outRot := rfl
@[simp] theorem complete_raised_buf (s : State) : (complete s .raisedBounds).buf = s.buf := rfl
@[simp] theorem complete_raised_inflight (s : State) : (complete s .raisedBounds).inflight = none := rfl
@[simp] theorem complete_raised_resetAsserted (s : State) : (complete s .raisedBounds).resetAsserted = s.resetAsserted := rfl
@[simp] theorem complete_raised_gen (s : State) : (complete s .raisedBounds).gen = s.gen := rfl
@[simp] theorem complete_raised_accepted (s : State) : (complete s .raisedBounds).accepted = s.accepted := rfl
@[simp] theorem complete_raised_wait (s : State) : (complete s .raisedBounds).wait = s.wait := rfl
@[simp] theorem complete_raised_host (s : State) : (complete s .raisedBounds).host = s.host := rfl
@[simp] theorem complete_raised_busData (s : State) : (complete s .raisedBounds).busData = s.busData := rfl

/-! R24: a host write to STATUS. -/

@[simp] theorem ackStatus_ie (s : State) (v : Word) : (ackStatus s v).ie = s.ie := rfl
@[simp] theorem ackStatus_done (s : State) (v : Word) : (ackStatus s v).done = (s.done && !v.getLsbD 1) := rfl
@[simp] theorem ackStatus_illegal (s : State) (v : Word) : (ackStatus s v).illegal = (s.illegal && !v.getLsbD 2) := rfl
@[simp] theorem ackStatus_bounds (s : State) (v : Word) : (ackStatus s v).bounds = (s.bounds && !v.getLsbD 3) := rfl
@[simp] theorem ackStatus_malformed (s : State) (v : Word) : (ackStatus s v).malformed = (s.malformed && !v.getLsbD 4) := rfl
@[simp] theorem ackStatus_wrPtr (s : State) (v : Word) : (ackStatus s v).wrPtr = s.wrPtr := rfl
@[simp] theorem ackStatus_cursor (s : State) (v : Word) : (ackStatus s v).cursor = s.cursor := rfl
@[simp] theorem ackStatus_len (s : State) (v : Word) : (ackStatus s v).len = s.len := rfl
@[simp] theorem ackStatus_tag (s : State) (v : Word) : (ackStatus s v).tag = s.tag := rfl
@[simp] theorem ackStatus_clsKind (s : State) (v : Word) : (ackStatus s v).clsKind = s.clsKind := rfl
@[simp] theorem ackStatus_clsAxis (s : State) (v : Word) : (ackStatus s v).clsAxis = s.clsAxis := rfl
@[simp] theorem ackStatus_clsAngle (s : State) (v : Word) : (ackStatus s v).clsAngle = s.clsAngle := rfl
@[simp] theorem ackStatus_clsEuler (s : State) (v : Word) : (ackStatus s v).clsEuler = s.clsEuler := rfl
@[simp] theorem ackStatus_codes (s : State) (v : Word) : (ackStatus s v).codes = s.codes := rfl
@[simp] theorem ackStatus_packed (s : State) (v : Word) : (ackStatus s v).packed = s.packed := rfl
@[simp] theorem ackStatus_inPos (s : State) (v : Word) : (ackStatus s v).inPos = s.inPos := rfl
@[simp] theorem ackStatus_inRot (s : State) (v : Word) : (ackStatus s v).inRot = s.inRot := rfl
@[simp] theorem ackStatus_outPos (s : State) (v : Word) : (ackStatus s v).outPos = s.outPos := rfl
@[simp] theorem ackStatus_outRot (s : State) (v : Word) : (ackStatus s v).outRot = s.outRot := rfl
@[simp] theorem ackStatus_buf (s : State) (v : Word) : (ackStatus s v).buf = s.buf := rfl
@[simp] theorem ackStatus_inflight (s : State) (v : Word) : (ackStatus s v).inflight = s.inflight := rfl
@[simp] theorem ackStatus_resetAsserted (s : State) (v : Word) : (ackStatus s v).resetAsserted = s.resetAsserted := rfl
@[simp] theorem ackStatus_gen (s : State) (v : Word) : (ackStatus s v).gen = s.gen := rfl
@[simp] theorem ackStatus_accepted (s : State) (v : Word) : (ackStatus s v).accepted = s.accepted := rfl
@[simp] theorem ackStatus_wait (s : State) (v : Word) : (ackStatus s v).wait = s.wait := rfl
@[simp] theorem ackStatus_host (s : State) (v : Word) : (ackStatus s v).host = s.host := rfl
@[simp] theorem ackStatus_busData (s : State) (v : Word) : (ackStatus s v).busData = s.busData := rfl

/-! R211: acceptance. -/

@[simp] theorem acceptCommand_ie (p : Params) (s : State) (i : Instr) : (acceptCommand p s i).ie = s.ie := rfl
@[simp] theorem acceptCommand_done (p : Params) (s : State) (i : Instr) : (acceptCommand p s i).done = s.done := rfl
@[simp] theorem acceptCommand_illegal (p : Params) (s : State) (i : Instr) : (acceptCommand p s i).illegal = s.illegal := rfl
@[simp] theorem acceptCommand_bounds (p : Params) (s : State) (i : Instr) : (acceptCommand p s i).bounds = s.bounds := rfl
@[simp] theorem acceptCommand_malformed (p : Params) (s : State) (i : Instr) : (acceptCommand p s i).malformed = s.malformed := rfl
@[simp] theorem acceptCommand_wrPtr (p : Params) (s : State) (i : Instr) : (acceptCommand p s i).wrPtr = s.wrPtr := rfl
@[simp] theorem acceptCommand_cursor (p : Params) (s : State) (i : Instr) : (acceptCommand p s i).cursor = s.cursor := rfl
@[simp] theorem acceptCommand_len (p : Params) (s : State) (i : Instr) : (acceptCommand p s i).len = s.len := rfl
@[simp] theorem acceptCommand_tag (p : Params) (s : State) (i : Instr) : (acceptCommand p s i).tag = s.tag := rfl
@[simp] theorem acceptCommand_clsKind (p : Params) (s : State) (i : Instr) : (acceptCommand p s i).clsKind = s.clsKind := rfl
@[simp] theorem acceptCommand_clsAxis (p : Params) (s : State) (i : Instr) : (acceptCommand p s i).clsAxis = s.clsAxis := rfl
@[simp] theorem acceptCommand_clsAngle (p : Params) (s : State) (i : Instr) : (acceptCommand p s i).clsAngle = s.clsAngle := rfl
@[simp] theorem acceptCommand_clsEuler (p : Params) (s : State) (i : Instr) : (acceptCommand p s i).clsEuler = s.clsEuler := rfl
@[simp] theorem acceptCommand_codes (p : Params) (s : State) (i : Instr) : (acceptCommand p s i).codes = s.codes := rfl
@[simp] theorem acceptCommand_packed (p : Params) (s : State) (i : Instr) : (acceptCommand p s i).packed = s.packed := rfl
@[simp] theorem acceptCommand_inPos (p : Params) (s : State) (i : Instr) : (acceptCommand p s i).inPos = s.inPos := rfl
@[simp] theorem acceptCommand_inRot (p : Params) (s : State) (i : Instr) : (acceptCommand p s i).inRot = s.inRot := rfl
@[simp] theorem acceptCommand_outPos (p : Params) (s : State) (i : Instr) : (acceptCommand p s i).outPos = s.outPos := rfl
@[simp] theorem acceptCommand_outRot (p : Params) (s : State) (i : Instr) : (acceptCommand p s i).outRot = s.outRot := rfl
@[simp] theorem acceptCommand_buf (p : Params) (s : State) (i : Instr) : (acceptCommand p s i).buf = s.buf := rfl
@[simp] theorem acceptCommand_inflight (p : Params) (s : State) (i : Instr) : (acceptCommand p s i).inflight = some i := rfl
@[simp] theorem acceptCommand_resetAsserted (p : Params) (s : State) (i : Instr) : (acceptCommand p s i).resetAsserted = s.resetAsserted := rfl
@[simp] theorem acceptCommand_gen (p : Params) (s : State) (i : Instr) : (acceptCommand p s i).gen = s.gen := rfl
@[simp] theorem acceptCommand_accepted (p : Params) (s : State) (i : Instr) : (acceptCommand p s i).accepted = s.accepted + 1 := rfl
@[simp] theorem acceptCommand_wait (p : Params) (s : State) (i : Instr) : (acceptCommand p s i).wait = p.lat s.accepted := rfl
@[simp] theorem acceptCommand_host (p : Params) (s : State) (i : Instr) : (acceptCommand p s i).host = s.host := rfl
@[simp] theorem acceptCommand_busData (p : Params) (s : State) (i : Instr) : (acceptCommand p s i).busData = s.busData := rfl

/-! R123. -/

@[simp] theorem writeClassification_ie (s : State) (c : Classification) : (writeClassification s c).ie = s.ie := rfl
@[simp] theorem writeClassification_done (s : State) (c : Classification) : (writeClassification s c).done = s.done := rfl
@[simp] theorem writeClassification_illegal (s : State) (c : Classification) : (writeClassification s c).illegal = s.illegal := rfl
@[simp] theorem writeClassification_bounds (s : State) (c : Classification) : (writeClassification s c).bounds = s.bounds := rfl
@[simp] theorem writeClassification_malformed (s : State) (c : Classification) : (writeClassification s c).malformed = s.malformed := rfl
@[simp] theorem writeClassification_wrPtr (s : State) (c : Classification) : (writeClassification s c).wrPtr = s.wrPtr := rfl
@[simp] theorem writeClassification_cursor (s : State) (c : Classification) : (writeClassification s c).cursor = s.cursor := rfl
@[simp] theorem writeClassification_len (s : State) (c : Classification) : (writeClassification s c).len = s.len := rfl
@[simp] theorem writeClassification_tag (s : State) (c : Classification) : (writeClassification s c).tag = s.tag := rfl
@[simp] theorem writeClassification_clsKind (s : State) (c : Classification) : (writeClassification s c).clsKind = kindCode c.kind := rfl
@[simp] theorem writeClassification_clsAxis (s : State) (c : Classification) : (writeClassification s c).clsAxis = c.axis := rfl
@[simp] theorem writeClassification_clsAngle (s : State) (c : Classification) : (writeClassification s c).clsAngle = c.angle := rfl
@[simp] theorem writeClassification_clsEuler (s : State) (c : Classification) : (writeClassification s c).clsEuler = c.euler := rfl
@[simp] theorem writeClassification_codes (s : State) (c : Classification) : (writeClassification s c).codes = classCodes c := rfl
@[simp] theorem writeClassification_packed (s : State) (c : Classification) : (writeClassification s c).packed = s.packed := rfl
@[simp] theorem writeClassification_inPos (s : State) (c : Classification) : (writeClassification s c).inPos = s.inPos := rfl
@[simp] theorem writeClassification_inRot (s : State) (c : Classification) : (writeClassification s c).inRot = s.inRot := rfl
@[simp] theorem writeClassification_outPos (s : State) (c : Classification) : (writeClassification s c).outPos = s.outPos := rfl
@[simp] theorem writeClassification_outRot (s : State) (c : Classification) : (writeClassification s c).outRot = s.outRot := rfl
@[simp] theorem writeClassification_buf (s : State) (c : Classification) : (writeClassification s c).buf = s.buf := rfl
@[simp] theorem writeClassification_inflight (s : State) (c : Classification) : (writeClassification s c).inflight = s.inflight := rfl
@[simp] theorem writeClassification_resetAsserted (s : State) (c : Classification) : (writeClassification s c).resetAsserted = s.resetAsserted := rfl
@[simp] theorem writeClassification_gen (s : State) (c : Classification) : (writeClassification s c).gen = s.gen := rfl
@[simp] theorem writeClassification_accepted (s : State) (c : Classification) : (writeClassification s c).accepted = s.accepted := rfl
@[simp] theorem writeClassification_wait (s : State) (c : Classification) : (writeClassification s c).wait = s.wait := rfl
@[simp] theorem writeClassification_host (s : State) (c : Classification) : (writeClassification s c).host = s.host := rfl
@[simp] theorem writeClassification_busData (s : State) (c : Classification) : (writeClassification s c).busData = s.busData := rfl

/-! R197. -/

@[simp] theorem decodeFrame_ie (p : Params) (s : State) (c : Nat) (tag : Byte) : (decodeFrame p s c tag).ie = s.ie := rfl
@[simp] theorem decodeFrame_done (p : Params) (s : State) (c : Nat) (tag : Byte) : (decodeFrame p s c tag).done = s.done := rfl
@[simp] theorem decodeFrame_illegal (p : Params) (s : State) (c : Nat) (tag : Byte) : (decodeFrame p s c tag).illegal = s.illegal := rfl
@[simp] theorem decodeFrame_bounds (p : Params) (s : State) (c : Nat) (tag : Byte) : (decodeFrame p s c tag).bounds = s.bounds := rfl
@[simp] theorem decodeFrame_malformed (p : Params) (s : State) (c : Nat) (tag : Byte) : (decodeFrame p s c tag).malformed = (s.malformed || (decodeRotation p s c tag).malformed) := rfl
@[simp] theorem decodeFrame_wrPtr (p : Params) (s : State) (c : Nat) (tag : Byte) : (decodeFrame p s c tag).wrPtr = s.wrPtr := rfl
@[simp] theorem decodeFrame_cursor (p : Params) (s : State) (c : Nat) (tag : Byte) : (decodeFrame p s c tag).cursor = s.cursor := rfl
@[simp] theorem decodeFrame_len (p : Params) (s : State) (c : Nat) (tag : Byte) : (decodeFrame p s c tag).len = BitVec.ofNat 8 (decodeLen tag) := rfl
@[simp] theorem decodeFrame_tag (p : Params) (s : State) (c : Nat) (tag : Byte) : (decodeFrame p s c tag).tag = tag := rfl
@[simp] theorem decodeFrame_clsKind (p : Params) (s : State) (c : Nat) (tag : Byte) : (decodeFrame p s c tag).clsKind = s.clsKind := rfl
@[simp] theorem decodeFrame_clsAxis (p : Params) (s : State) (c : Nat) (tag : Byte) : (decodeFrame p s c tag).clsAxis = s.clsAxis := rfl
@[simp] theorem decodeFrame_clsAngle (p : Params) (s : State) (c : Nat) (tag : Byte) : (decodeFrame p s c tag).clsAngle = s.clsAngle := rfl
@[simp] theorem decodeFrame_clsEuler (p : Params) (s : State) (c : Nat) (tag : Byte) : (decodeFrame p s c tag).clsEuler = s.clsEuler := rfl
@[simp] theorem decodeFrame_codes (p : Params) (s : State) (c : Nat) (tag : Byte) : (decodeFrame p s c tag).codes = s.codes := rfl
@[simp] theorem decodeFrame_packed (p : Params) (s : State) (c : Nat) (tag : Byte) : (decodeFrame p s c tag).packed = s.packed := rfl
@[simp] theorem decodeFrame_inPos (p : Params) (s : State) (c : Nat) (tag : Byte) : (decodeFrame p s c tag).inPos = s.inPos := rfl
@[simp] theorem decodeFrame_inRot (p : Params) (s : State) (c : Nat) (tag : Byte) : (decodeFrame p s c tag).inRot = s.inRot := rfl
@[simp] theorem decodeFrame_outPos (p : Params) (s : State) (c : Nat) (tag : Byte) : (decodeFrame p s c tag).outPos = decodePosition p s c := rfl
@[simp] theorem decodeFrame_outRot (p : Params) (s : State) (c : Nat) (tag : Byte) : (decodeFrame p s c tag).outRot = (decodeRotation p s c tag).rot := rfl
@[simp] theorem decodeFrame_buf (p : Params) (s : State) (c : Nat) (tag : Byte) : (decodeFrame p s c tag).buf = s.buf := rfl
@[simp] theorem decodeFrame_inflight (p : Params) (s : State) (c : Nat) (tag : Byte) : (decodeFrame p s c tag).inflight = s.inflight := rfl
@[simp] theorem decodeFrame_resetAsserted (p : Params) (s : State) (c : Nat) (tag : Byte) : (decodeFrame p s c tag).resetAsserted = s.resetAsserted := rfl
@[simp] theorem decodeFrame_gen (p : Params) (s : State) (c : Nat) (tag : Byte) : (decodeFrame p s c tag).gen = s.gen := rfl
@[simp] theorem decodeFrame_accepted (p : Params) (s : State) (c : Nat) (tag : Byte) : (decodeFrame p s c tag).accepted = s.accepted := rfl
@[simp] theorem decodeFrame_wait (p : Params) (s : State) (c : Nat) (tag : Byte) : (decodeFrame p s c tag).wait = s.wait := rfl
@[simp] theorem decodeFrame_host (p : Params) (s : State) (c : Nat) (tag : Byte) : (decodeFrame p s c tag).host = s.host := rfl
@[simp] theorem decodeFrame_busData (p : Params) (s : State) (c : Nat) (tag : Byte) : (decodeFrame p s c tag).busData = s.busData := rfl

/-! R250: reset asserted. -/

@[simp] theorem assertReset_ie (s : State) : (assertReset s).ie = s.ie := rfl
@[simp] theorem assertReset_done (s : State) : (assertReset s).done = s.done := rfl
@[simp] theorem assertReset_illegal (s : State) : (assertReset s).illegal = s.illegal := rfl
@[simp] theorem assertReset_bounds (s : State) : (assertReset s).bounds = s.bounds := rfl
@[simp] theorem assertReset_malformed (s : State) : (assertReset s).malformed = s.malformed := rfl
@[simp] theorem assertReset_wrPtr (s : State) : (assertReset s).wrPtr = s.wrPtr := rfl
@[simp] theorem assertReset_cursor (s : State) : (assertReset s).cursor = s.cursor := rfl
@[simp] theorem assertReset_len (s : State) : (assertReset s).len = s.len := rfl
@[simp] theorem assertReset_tag (s : State) : (assertReset s).tag = s.tag := rfl
@[simp] theorem assertReset_clsKind (s : State) : (assertReset s).clsKind = s.clsKind := rfl
@[simp] theorem assertReset_clsAxis (s : State) : (assertReset s).clsAxis = s.clsAxis := rfl
@[simp] theorem assertReset_clsAngle (s : State) : (assertReset s).clsAngle = s.clsAngle := rfl
@[simp] theorem assertReset_clsEuler (s : State) : (assertReset s).clsEuler = s.clsEuler := rfl
@[simp] theorem assertReset_codes (s : State) : (assertReset s).codes = s.codes := rfl
@[simp] theorem assertReset_packed (s : State) : (assertReset s).packed = s.packed := rfl
@[simp] theorem assertReset_inPos (s : State) : (assertReset s).inPos = s.inPos := rfl
@[simp] theorem assertReset_inRot (s : State) : (assertReset s).inRot = s.inRot := rfl
@[simp] theorem assertReset_outPos (s : State) : (assertReset s).outPos = s.outPos := rfl
@[simp] theorem assertReset_outRot (s : State) : (assertReset s).outRot = s.outRot := rfl
@[simp] theorem assertReset_buf (s : State) : (assertReset s).buf = s.buf := rfl
@[simp] theorem assertReset_inflight (s : State) : (assertReset s).inflight = none := rfl
@[simp] theorem assertReset_resetAsserted (s : State) : (assertReset s).resetAsserted = true := rfl
@[simp] theorem assertReset_gen (s : State) : (assertReset s).gen = s.gen := rfl
@[simp] theorem assertReset_accepted (s : State) : (assertReset s).accepted = s.accepted := rfl
@[simp] theorem assertReset_wait (s : State) : (assertReset s).wait = 0 := rfl
@[simp] theorem assertReset_host (s : State) : (assertReset s).host = s.host := rfl
@[simp] theorem assertReset_busData (s : State) : (assertReset s).busData = s.busData := rfl


/-! R165 to R167: the whole effect of a successful ENCODE. -/

@[simp] theorem encodeFrame_ie (p : Params) (s : State) (c : Classification) (w n : Nat) :
    (encodeFrame p s c w n).ie = s.ie := rfl
@[simp] theorem encodeFrame_done (p : Params) (s : State) (c : Classification) (w n : Nat) :
    (encodeFrame p s c w n).done = s.done := rfl
@[simp] theorem encodeFrame_illegal (p : Params) (s : State) (c : Classification) (w n : Nat) :
    (encodeFrame p s c w n).illegal = s.illegal := rfl
@[simp] theorem encodeFrame_bounds (p : Params) (s : State) (c : Classification) (w n : Nat) :
    (encodeFrame p s c w n).bounds = s.bounds := rfl
@[simp] theorem encodeFrame_malformed (p : Params) (s : State) (c : Classification) (w n : Nat) :
    (encodeFrame p s c w n).malformed = s.malformed := rfl
@[simp] theorem encodeFrame_wrPtr (p : Params) (s : State) (c : Classification) (w n : Nat) :
    (encodeFrame p s c w n).wrPtr = BitVec.ofNat 32 (w + n) := rfl
@[simp] theorem encodeFrame_cursor (p : Params) (s : State) (c : Classification) (w n : Nat) :
    (encodeFrame p s c w n).cursor = s.cursor := rfl
@[simp] theorem encodeFrame_len (p : Params) (s : State) (c : Classification) (w n : Nat) :
    (encodeFrame p s c w n).len = BitVec.ofNat 8 n := rfl
@[simp] theorem encodeFrame_tag (p : Params) (s : State) (c : Classification) (w n : Nat) :
    (encodeFrame p s c w n).tag = tagByte c.kind := rfl
@[simp] theorem encodeFrame_clsKind (p : Params) (s : State) (c : Classification) (w n : Nat) :
    (encodeFrame p s c w n).clsKind = kindCode c.kind := rfl
@[simp] theorem encodeFrame_clsAxis (p : Params) (s : State) (c : Classification) (w n : Nat) :
    (encodeFrame p s c w n).clsAxis = c.axis := rfl
@[simp] theorem encodeFrame_clsAngle (p : Params) (s : State) (c : Classification) (w n : Nat) :
    (encodeFrame p s c w n).clsAngle = c.angle := rfl
@[simp] theorem encodeFrame_clsEuler (p : Params) (s : State) (c : Classification) (w n : Nat) :
    (encodeFrame p s c w n).clsEuler = c.euler := rfl
@[simp] theorem encodeFrame_codes (p : Params) (s : State) (c : Classification) (w n : Nat) :
    (encodeFrame p s c w n).codes = classCodes c := rfl
@[simp] theorem encodeFrame_packed (p : Params) (s : State) (c : Classification) (w n : Nat) :
    (encodeFrame p s c w n).packed = s.packed := rfl
@[simp] theorem encodeFrame_inPos (p : Params) (s : State) (c : Classification) (w n : Nat) :
    (encodeFrame p s c w n).inPos = s.inPos := rfl
@[simp] theorem encodeFrame_inRot (p : Params) (s : State) (c : Classification) (w n : Nat) :
    (encodeFrame p s c w n).inRot = s.inRot := rfl
@[simp] theorem encodeFrame_outPos (p : Params) (s : State) (c : Classification) (w n : Nat) :
    (encodeFrame p s c w n).outPos = s.outPos := rfl
@[simp] theorem encodeFrame_outRot (p : Params) (s : State) (c : Classification) (w n : Nat) :
    (encodeFrame p s c w n).outRot = s.outRot := rfl
@[simp] theorem encodeFrame_buf (p : Params) (s : State) (c : Classification) (w n : Nat) :
    (encodeFrame p s c w n).buf = Memory.writeList (p.resetByte s.gen) s.buf w (frameBytes s.inPos c) := rfl
@[simp] theorem encodeFrame_inflight (p : Params) (s : State) (c : Classification) (w n : Nat) :
    (encodeFrame p s c w n).inflight = s.inflight := rfl
@[simp] theorem encodeFrame_resetAsserted (p : Params) (s : State) (c : Classification) (w n : Nat) :
    (encodeFrame p s c w n).resetAsserted = s.resetAsserted := rfl
@[simp] theorem encodeFrame_gen (p : Params) (s : State) (c : Classification) (w n : Nat) :
    (encodeFrame p s c w n).gen = s.gen := rfl
@[simp] theorem encodeFrame_accepted (p : Params) (s : State) (c : Classification) (w n : Nat) :
    (encodeFrame p s c w n).accepted = s.accepted := rfl
@[simp] theorem encodeFrame_wait (p : Params) (s : State) (c : Classification) (w n : Nat) :
    (encodeFrame p s c w n).wait = s.wait := rfl
@[simp] theorem encodeFrame_host (p : Params) (s : State) (c : Classification) (w n : Nat) :
    (encodeFrame p s c w n).host = s.host := rfl
@[simp] theorem encodeFrame_busData (p : Params) (s : State) (c : Classification) (w n : Nat) :
    (encodeFrame p s c w n).busData = s.busData := rfl

end Sys2Proof.Machine
end

