-- ==== Sys2Proof/Laws/Ops.lean ====
section
/-! SUPPORT. Once for each shared operation: everything it can do. Later proofs cite these instead of unfolding. -/

namespace Sys2Proof

/-! ## Parameters -/

theorem Params.bufBytes_ge (p : Params) : 25 ≤ p.bufBytes := by unfold Params.bufBytes; omega

theorem Params.bufBytes_le (p : Params) : p.bufBytes ≤ 65536 := by
  have := p.bufExtra.isLt
  unfold Params.bufBytes
  omega

end Sys2Proof

namespace Sys2Proof.Machine

/-! ## Commands -/

/-- R164, R190, R191: past the check the rule goes on, else it raises BOUNDS. -/
theorem boundsCheck_eq (p : Params) (i n : Nat) (r : CmdResult) :
    boundsCheck p i n r = if i + n ≤ p.bufBytes then r else .raisedBounds := by
  unfold boundsCheck
  by_cases h : i + n ≤ p.bufBytes
  · rw [if_pos h, if_neg (by omega)]
  · rw [if_neg h, if_pos (by omega)]

/-- R222: the completion of a raised fault. -/
theorem complete_raisedBounds (s : State) : complete s .raisedBounds = boundsFaulted s := rfl

/-- The rule each command performs at its completion (R212). -/
def commandRule (i : Instr) (s : State) : CmdResult :=
  match i with
  | .nop => nopRule s
  | .encode => encodeRule Config.hw s
  | .decode => decodeRule Config.hw s
  | .classify => classifyRule Config.hw s
  | .pack => packRule s
  | .unpack => unpackRule s

/-- R212: every command's completion is a next state. -/
theorem exec_eq (i : Instr) (s : State) : exec i s = .next (complete s (commandRule i s)) := by cases i <;> rfl

/-- The rule of ENCODE in one equation (R164 to R167). -/
theorem encodeRule_eq (p : Params) (s : State) :
    encodeRule p s =
      if s.wrPtr.toNat + frameLen (classify p s.inRot).kind ≤ p.bufBytes then
        .finished (encodeFrame p s (classify p s.inRot) s.wrPtr.toNat (frameLen (classify p s.inRot).kind))
      else .raisedBounds := boundsCheck_eq _ _ _ _

/-- The completion of ENCODE where its frame fits (R165 to R167). -/
theorem complete_encode_fits {p : Params} {s : State}
    (h : s.wrPtr.toNat + frameLen (classify p s.inRot).kind ≤ p.bufBytes) :
    complete s (encodeRule p s) =
      { encodeFrame p s (classify p s.inRot) s.wrPtr.toNat (frameLen (classify p s.inRot).kind) with
        done := true, inflight := none } := by
  rw [encodeRule_eq, if_pos h]
  rfl

/-- What a byte reads as after the completion of a command that wrote the frame of `encodeFrame` (R165). -/
theorem readByte_complete_encodeFrame (p : Params) (s : State) (c : Classification) (w n a : Nat) :
    readByte p (complete s (.finished (encodeFrame p s c w n))) a =
      if w ≤ a then ((frameBytes s.inPos c)[a - w]?).getD (readByte p s a) else readByte p s a := by
  rw [← readByte_writeBytes]
  exact readByte_congr p (by simp) (by simp) a

/-- A fault leaves every byte alone (R222). -/
theorem readByte_complete_raised (p : Params) (s : State) (a : Nat) :
    readByte p (complete s .raisedBounds) a = readByte p s a := readByte_congr p (by simp) (by simp) a

/-- A DECODE leaves every byte alone (R201). -/
theorem readByte_complete_decodeFrame (p : Params) (s : State) (c : Nat) (tag : Byte) (a : Nat) :
    readByte p (complete s (.finished (decodeFrame p s c tag))) a = readByte p s a :=
  readByte_congr p (by simp) (by simp) a

/-- The rule of DECODE in one equation: the two checks are one, since no frame is shorter than its header
(R190, R191). -/
theorem decodeRule_eq (p : Params) (s : State) :
    decodeRule p s =
      if s.cursor.toNat + decodeLen (readByte p s s.cursor.toNat) ≤ p.bufBytes then
        .finished (decodeFrame p s s.cursor.toNat (readByte p s s.cursor.toNat))
      else .raisedBounds := by
  have h13 : ∀ tag : Byte, 13 ≤ decodeLen tag := by
    intro tag
    unfold decodeLen
    split <;> omega
  have := h13 (readByte p s s.cursor.toNat)
  show boundsCheck _ _ _ (boundsCheck _ _ _ _) = _
  rw [boundsCheck_eq, boundsCheck_eq]
  by_cases h : s.cursor.toNat + decodeLen (readByte p s s.cursor.toNat) ≤ p.bufBytes
  · rw [if_pos h, if_pos (by omega)]
  · rw [if_neg h, ite_self]

/-! ## Turns and steps -/

/-- Whose turn it is (R212). -/
theorem turn_cases (s : State) :
    (∃ i, s.resetAsserted = false ∧ s.inflight = some i ∧ s.wait = 0 ∧ turn s = .engine i) ∨
    (s.resetAsserted = false ∧ s.inflight.isSome = true ∧ s.wait ≠ 0 ∧ turn s = .host { s with wait := s.wait - 1 }) ∨
    ((s.resetAsserted = true ∨ s.inflight = none) ∧ turn s = .host s) := by
  unfold turn
  cases hr : s.resetAsserted
  · cases hi : s.inflight with
    | none => exact .inr (.inr ⟨.inr rfl, rfl⟩)
    | some i =>
      by_cases hw : s.wait = 0
      · exact .inl ⟨i, rfl, rfl, hw, by simp [hw]⟩
      · exact .inr (.inl ⟨rfl, rfl, hw, by simp [hw]⟩)
  · exact .inr (.inr ⟨.inl rfl, rfl⟩)

theorem step_engine {s : State} {i : Instr} (h : turn s = .engine i) : step s = exec i s := by
  unfold step; rw [h]

theorem step_host {s t : State} (h : turn s = .host t) : step s = hostStep Config.hw t := by
  unfold step; rw [h]

/-- R210: what a CMD write can do. -/
theorem writeCmd_cases (p : Params) (s : State) (w : Word) :
    (s.inflight.isSome = true ∧ writeCmd p s w = { s with illegal := true }) ∨
    (s.inflight = none ∧ ∃ i, decode w = .ok i ∧ writeCmd p s w = acceptCommand p s i) ∨
    (s.inflight = none ∧ ∃ e, decode w = .error e ∧ writeCmd p s w = { s with illegal := true, done := true }) := by
  unfold writeCmd
  cases hi : s.inflight with
  | some i => exact .inl ⟨rfl, rfl⟩
  | none =>
    cases hd : decode w with
    | ok i => exact .inr (.inl ⟨rfl, i, rfl, by simp⟩)
    | error e => exact .inr (.inr ⟨rfl, e, rfl, by simp⟩)

/-- A host read that answers a next state changes nothing of the block (R67). -/
theorem hostRead_next {p : Params} {s t : State} {n off : Nat} (h : hostRead p s n off = .next t) :
    accessRefusal p s n off = none ∧ t = { s with busData := some (readPlace p s n (placeOf p off)) } := by
  unfold hostRead at h
  cases ha : accessRefusal p s n off with
  | some e => rw [ha] at h; cases h
  | none => rw [ha] at h; injection h with h; exact ⟨rfl, h.symm⟩

/-- A host write that answers a next state was accepted. -/
theorem hostWrite_next {p : Params} {s t : State} {n off : Nat} {v : Word} (h : hostWrite p s n off v = .next t) :
    accessRefusal p s n off = none ∧ t = writePlace p s n v (placeOf p off) := by
  unfold hostWrite at h
  cases ha : accessRefusal p s n off with
  | some e => rw [ha] at h; cases h
  | none => rw [ha] at h; injection h with h; exact ⟨rfl, h.symm⟩

/-- When an access has a meaning (R64, R250, R260). -/
theorem accessRefusal_none {p : Params} {s : State} {n off : Nat} (h : accessRefusal p s n off = none) :
    s.resetAsserted = false ∧ busAccepts n off = true ∧
      (s.inflight = none ∨ placeAllowedBusy (placeOf p off) = true) := by
  unfold accessRefusal at h
  cases hr : s.resetAsserted
  · cases hb : busAccepts n off
    · simp [hr, hb] at h
    · refine ⟨rfl, rfl, ?_⟩
      cases hi : s.inflight with
      | none => exact .inl rfl
      | some i =>
        cases hp : placeAllowedBusy (placeOf p off)
        · simp [hr, hb, hp, State.busy, hi] at h
        · exact .inr rfl
  · simp [hr] at h

/-- Everything a step with a next state can have done: a command completed, nothing was pending, or one host action was
performed on a state u that differs from s only in the list and the wait count. -/
theorem step_next_cases {s t : State} (h : step s = .next t) :
    (∃ i, s.resetAsserted = false ∧ s.inflight = some i ∧ s.wait = 0 ∧ t = complete s (commandRule i s)) ∨
    (s.host = [] ∧ ∃ w, t = { s with wait := w }) ∨
    (∃ e rest w, s.host = e :: rest ∧ hostAction Config.hw { s with host := rest, wait := w } e = .next t ∧
      (s.resetAsserted = true ∨ s.inflight = none ∨ s.wait ≠ 0) ∧ (s.inflight = none → w = s.wait)) := by
  have host : ∀ w, step s = hostStep Config.hw { s with wait := w } →
      (s.resetAsserted = true ∨ s.inflight = none ∨ s.wait ≠ 0) → (s.inflight = none → w = s.wait) →
      (s.host = [] ∧ ∃ w, t = { s with wait := w }) ∨
      (∃ e rest w, s.host = e :: rest ∧ hostAction Config.hw { s with host := rest, wait := w } e = .next t ∧
        (s.resetAsserted = true ∨ s.inflight = none ∨ s.wait ≠ 0) ∧ (s.inflight = none → w = s.wait)) := by
    intro w hw hc hi
    rw [hw, hostStep] at h
    cases hh : s.host with
    | nil =>
      simp only [hh] at h
      injection h with h
      exact .inl ⟨rfl, w, h.symm⟩
    | cons e rest =>
      simp only [hh] at h
      exact .inr ⟨e, rest, w, rfl, h, hc, hi⟩
  rcases turn_cases s with ⟨i, hr, hi, hw, ht⟩ | ⟨hr, hi, hw, ht⟩ | ⟨hc, ht⟩
  · rw [step_engine ht, exec_eq] at h
    injection h with h
    exact .inl ⟨i, hr, hi, hw, h.symm⟩
  · refine .inr (host _ (step_host ht) (.inr (.inr hw)) ?_)
    intro hn
    rw [hn] at hi
    cases hi
  · refine .inr (host s.wait (step_host ht) ?_ (fun _ => rfl))
    rcases hc with hc | hc
    · exact .inl hc
    · exact .inr (.inl hc)

/-! ## The register map -/

/-- R20: every register is found at its offset. -/
theorem regAt_offset (r : Reg) : regAt r.offset = some r := by
  cases r with
  | inRot r c => fin_cases r <;> fin_cases c <;> decide
  | outRot r c => fin_cases r <;> fin_cases c <;> decide
  | _ => decide

/-- R20: what `regAt` finds stands at that offset. -/
theorem offset_of_regAt {off : Nat} {r : Reg} (h : regAt off = some r) : r.offset = off := by
  have := List.find?_some h
  simpa using this

/-- R20: every offset is a multiple of 4 in the register window, at most 0xC0. -/
theorem Reg.offset_bound (r : Reg) : r.offset ≤ 0xC0 ∧ r.offset % 4 = 0 := by
  cases r with
  | inRot r c => fin_cases r <;> fin_cases c <;> decide
  | outRot r c => fin_cases r <;> fin_cases c <;> decide
  | _ => decide

theorem regOff_toNat (r : Reg) : (regOff r).toNat = r.offset := by
  have := r.offset_bound
  simp only [regOff, BitVec.toNat_ofNat]
  omega

/-- R61: a register's offset is that register. -/
theorem placeOf_offset (p : Params) (r : Reg) : placeOf p r.offset = .reg r := by
  have := r.offset_bound
  unfold placeOf
  rw [if_pos (by omega), regAt_offset]

theorem busAccepts_offset (r : Reg) : busAccepts 4 r.offset = true := by
  simp [busAccepts, r.offset_bound.2]

/-- A register access of 32 bits that R260 allows has a meaning outside reset. -/
theorem accessRefusal_reg {p : Params} {s : State} {r : Reg} (hr : s.resetAsserted = false)
    (hb : s.inflight = none ∨ busyAllowed r = true) : accessRefusal p s 4 (regOff r).toNat = none := by
  rw [regOff_toNat]
  unfold accessRefusal
  rw [placeOf_offset, busAccepts_offset, hr]
  rcases hb with hb | hb
  · simp [State.busy, hb]
  · simp [placeAllowedBusy, hb]

/-- R61: a byte of the buffer window. -/
theorem bufOff_toNat {p : Params} {i : Nat} (h : i < p.bufBytes) : (bufOff i).toNat = 0x10000 + i := by
  have := p.bufBytes_le
  simp only [bufOff, BitVec.toNat_ofNat]
  omega

theorem placeOf_buffer {p : Params} {i : Nat} (h : i < p.bufBytes) : placeOf p (0x10000 + i) = .buffer i := by
  unfold placeOf
  rw [if_neg (by omega), if_pos (by omega), Nat.add_sub_cancel_left]

/-- R61: an offset that lies in a register is that register's offset. -/
theorem placeOf_eq_reg {p : Params} {off : Nat} {r : Reg} (h : placeOf p off = .reg r) :
    off < 0x10000 ∧ off = r.offset := by
  unfold placeOf at h
  split at h
  · rename_i hl
    cases ha : regAt off with
    | none => simp [ha] at h
    | some r' =>
      simp [ha] at h
      subst h
      exact ⟨hl, (offset_of_regAt ha).symm⟩
  · split at h <;> cases h

/-- R61: an offset that lies in the buffer is its index above 0x10000. -/
theorem placeOf_eq_buffer {p : Params} {off i : Nat} (h : placeOf p off = .buffer i) :
    off = 0x10000 + i ∧ i < p.bufBytes := by
  unfold placeOf at h
  split at h
  · split at h <;> cases h
  · split at h
    · injection h with h
      omega
    · cases h

/-- R63: what the bus accepts in the register window. -/
theorem busAccepts_reg_window {n off : Nat} (h : busAccepts n off = true) (ho : off < 0x10000) :
    n = 4 ∧ off % 4 = 0 := by
  simp [busAccepts] at h
  omega

/-- R62 to R64: the three widths of the bus. -/
theorem busAccepts_width {n off : Nat} (h : busAccepts n off = true) : n = 1 ∨ n = 2 ∨ n = 4 := by
  simp [busAccepts] at h
  omega

/-! ## Host actions -/

/-- A 32-bit register write with a meaning (R63, R260). -/
theorem hostWrite_reg (p : Params) {s : State} {r : Reg} (v : Word) (hr : s.resetAsserted = false)
    (hb : s.inflight = none ∨ busyAllowed r = true) :
    hostWrite p s 4 (regOff r).toNat v = .next (writeReg p s r v) := by
  unfold hostWrite
  rw [accessRefusal_reg hr hb, regOff_toNat, placeOf_offset]
  rfl

/-- A 32-bit register read with a meaning (R63, R260). -/
theorem hostRead_reg (p : Params) {s : State} {r : Reg} (hr : s.resetAsserted = false)
    (hb : s.inflight = none ∨ busyAllowed r = true) :
    hostRead p s 4 (regOff r).toNat = .next { s with busData := some (readReg p s r) } := by
  unfold hostRead
  rw [accessRefusal_reg hr hb, regOff_toNat, placeOf_offset]
  rfl

/-- Everything a host action with a next state can have done: nothing to the block, reset asserted or released, one
register written, or one run of buffer bytes written while no command was in flight. -/
theorem hostAction_next_cases {p : Params} {s t : State} {e : HostEvent} (h : hostAction p s e = .next t) :
    (∃ d hs, t = { s with busData := d, host := hs }) ∨ (e = .resetAssert ∧ t = assertReset s) ∨
    (e = .resetRelease ∧ t = releaseReset s) ∨
    (∃ v r, e = .write 4 (regOff r) v ∧ s.resetAsserted = false ∧ (s.inflight = none ∨ busyAllowed r = true) ∧
      t = writeReg p s r v) ∨
    (∃ n off v i, e = .write n off v ∧ s.resetAsserted = false ∧ s.inflight = none ∧ (n = 1 ∨ n = 2 ∨ n = 4) ∧
      off.toNat = 0x10000 + i ∧ i < p.bufBytes ∧ t = writeWindow p s i ((leBytes v).take n)) := by
  cases e with
  | read n off => exact .inl ⟨_, s.host, (hostRead_next h).2⟩
  | poll =>
    have := (hostRead_next h).2
    subst this
    left
    split
    · exact ⟨_, _, rfl⟩
    · exact ⟨_, s.host, rfl⟩
  | resetAssert => injection h with h; exact .inr (.inl ⟨rfl, h.symm⟩)
  | resetRelease => injection h with h; exact .inr (.inr (.inl ⟨rfl, h.symm⟩))
  | write n off v =>
    obtain ⟨hn, rfl⟩ := hostWrite_next h
    obtain ⟨hr, ha, hb⟩ := accessRefusal_none hn
    cases hp : placeOf p off.toNat with
    | reg r =>
      obtain ⟨h1, h2⟩ := placeOf_eq_reg hp
      obtain ⟨rfl, _⟩ := busAccepts_reg_window ha h1
      rw [hp] at hb
      have he : off = regOff r := BitVec.eq_of_toNat_eq (by rw [regOff_toNat, h2])
      exact .inr (.inr (.inr (.inl ⟨v, r, by rw [he], hr, hb, rfl⟩)))
    | reserved => exact .inl ⟨s.busData, s.host, rfl⟩
    | unbacked => exact .inl ⟨s.busData, s.host, rfl⟩
    | buffer i =>
      obtain ⟨h2, h3⟩ := placeOf_eq_buffer hp
      refine .inr (.inr (.inr (.inr ⟨n, off, v, i, rfl, hr, ?_, busAccepts_width ha, h2, h3, rfl⟩)))
      rcases hb with hb | hb
      · exact hb
      · rw [hp] at hb
        cases hb

/-- With nothing in flight the step is the host's oldest action (R70). -/
theorem step_idle {s : State} {e : HostEvent} {rest : List HostEvent} (hi : s.inflight = none)
    (hh : s.host = e :: rest) : step s = hostAction Config.hw { s with host := rest } e := by
  have ht : turn s = .host s := by
    unfold turn
    split <;> simp [hi]
  rw [step_host ht, hostStep, hh]

/-- With a command in flight and steps left the step is the host's oldest action and one step is used up (log 2). -/
theorem step_wait {s : State} {e : HostEvent} {rest : List HostEvent} {i : Instr} {n : Nat}
    (hr : s.resetAsserted = false) (hi : s.inflight = some i) (hw : s.wait = n + 1) (hh : s.host = e :: rest) :
    step s = hostAction Config.hw { s with host := rest, wait := n } e := by
  rw [step_host (t := { s with wait := n }) (by simp [turn, hr, hi, hw]), hostStep]
  simp [hh]

/-- Where the engine does not complete a command, the step is the host's oldest action, on a state whose wait count may
be one less (log 2). -/
theorem step_host_action {s : State} {e : HostEvent} {rest : List HostEvent}
    (h : s.resetAsserted = true ∨ s.inflight = none ∨ s.wait ≠ 0) (hh : s.host = e :: rest) :
    ∃ w, step s = hostAction Config.hw { s with host := rest, wait := w } e := by
  rcases turn_cases s with ⟨i, hr, hi, hw, ht⟩ | ⟨hr, hi, hw, ht⟩ | ⟨hc, ht⟩
  · simp [hr, hi, hw] at h
  · exact ⟨s.wait - 1, by rw [step_host ht, hostStep]; simp [hh]⟩
  · exact ⟨s.wait, by rw [step_host ht, hostStep]; simp [hh]⟩

/-- A run goes on from the state of its first step, on any machine. -/
theorem core_run_succ (M : Host.Core) (k : Nat) {s t : M.State} (h : M.step s = .next t) :
    M.run (k + 1) s = M.run k t := by
  rw [Host.Core.run, h]

/-- A run goes on from the state of its first step. -/
theorem run_succ {s t : State} (k : Nat) (h : step s = .next t) : core.run (k + 1) s = core.run k t :=
  core_run_succ core k h

/-- The registers R260 allows while BUSY (R260), as a list. -/
theorem busyAllowed_iff (r : Reg) : busyAllowed r = true ↔ r ∈ [Reg.id, .bufsz, .ctrl, .status, .cmd] := by
  cases r <;> simp [busyAllowed]

/-! ## Frames -/

/-- R119: the nine codes come with kind AxisAligned and with no other. -/
theorem classify_codes_isSome (p : Params) (m : Mat3) :
    (classify p m).codes.isSome = true ↔ (classify p m).kind = .axisAligned := by
  unfold classify
  simp only
  split
  · simp
  · split
    · simp
    · split <;> simp

/-- R160, R161: a frame is as long as its kind says. -/
theorem frameBytes_length (p : Params) (m : Mat3) (pos : Vec3) :
    (frameBytes pos (classify p m)).length = frameLen (classify p m).kind := by
  have h := classify_codes_isSome p m
  unfold frameBytes payloadBytes
  cases hk : (classify p m).kind <;> simp [leBytes, frameLen]
  obtain ⟨k, hc⟩ := Option.isSome_iff_exists.1 (h.2 hk)
  simp [packedPayload, hc]

end Sys2Proof.Machine
end

