-- ==== Sys2Proof/Laws/PerInstr.lean ====
section
/-! SUPPORT. What holds of every command as syntax, one lemma per constructor. -/

namespace Sys2Proof.Laws.EncodingFields

open Sys2Proof

/-- R80, R81: the command's word has RSV zero and an assigned OP, and the command has no ill-formed form. -/
def Statement (i : Instr) : Prop :=
  (splitWord (encode i)).wellFormed = true ∧ (splitWord (encode i)).op = opcode i ∧ i.wellFormed = true

theorem nop : Statement .nop := by unfold Statement; decide
theorem encode : Statement .encode := by unfold Statement; decide
theorem decode : Statement .decode := by unfold Statement; decide
theorem classify : Statement .classify := by unfold Statement; decide
theorem pack : Statement .pack := by unfold Statement; decide
theorem unpack : Statement .unpack := by unfold Statement; decide

end Sys2Proof.Laws.EncodingFields
end

