-- ==== Sys2Proof/Tests/Slice0.lean ====
section
/-! SUPPORT. Own tests. Expected values are those of 95_test_vectors.md, whose name stands beside each. A command is run
through its rule under `testP`, a choice of the open parameters with the function values the vectors name, since
nothing can be evaluated at the machine's own. After the tests, a state and operands that meet the hypotheses of each
obligation (`witness_…`). -/

namespace Sys2Proof.Tests

open Sys2Proof Sys2Proof.Machine

/-! ## Parameters of the tests -/

/-- `ATAN2_32` by I-TRIG T4 where an operand is a zero, and at the points of V-CL-7, V-CL-13 and V-CL-16. -/
def testAtan2 (y x : Word) : Word :=
  if y = PZERO ∨ y = NZERO then
    if x = NZERO ∨ lt x PZERO = true then (if y = PZERO then PI32 else neg PI32) else y
  else if x = PZERO ∨ x = NZERO then
    if lt PZERO y = true then HALFPI32 else if lt y PZERO = true then neg HALFPI32 else CNAN
  else if y = 0x3727C5AC#32 ∧ x = ONE then 0x3727C5AC#32
  else if y = 0x3EF57744#32 ∧ x = 0x3F60A940#32 then 0x3F000000#32
  else if y = 0x3E271796#32 ∧ x = 0x3F6CE819#32 then 0x3E32B8C3#32
  else if y = 0x3DA7BAFB#32 ∧ x = 0x3F6FA55A#32 then 0x3DB2B8C2#32
  else CNAN

/-- Parameters with `BUF_BYTES` = 4096, as the programs of the spec take it. -/
def testP : Params where
  bufExtra := ⟨4071, by decide⟩
  sin32 x := if isNaN x then CNAN else if x = PI32 then 0xB3BBBD2E#32 else if x = NZERO then NZERO else PZERO
  cos32 x := if isNaN x then CNAN else if x = PI32 then MONE else ONE
  asin32 x := if x = 0x3EAF1D43#32 then 0x3EB2B8C2#32 else if x = NZERO then NZERO else PZERO
  atan2_32 := testAtan2
  lat _ := 2
  resetByte _ _ := 0xAA#8
  negZero _ := true

/-- The matrix of V-CL-7. -/
def matX : Mat3 := ⟨ONE, 0#32, 0#32, 0#32, ONE, 0xB727C5AC#32, 0#32, 0x3727C5AC#32, ONE⟩
/-- The matrix of V-CL-2, Rx(90°). -/
def matRx90 : Mat3 := ⟨ONE, 0#32, 0#32, 0#32, 0#32, MONE, 0#32, ONE, 0#32⟩
/-- The matrix of V-CL-3, Rz(180°). -/
def matRz180 : Mat3 := ⟨MONE, 0#32, 0#32, 0#32, MONE, 0#32, 0#32, 0#32, ONE⟩
/-- The matrix of V-CL-11, Ry(90°): gimbal lock and axis-aligned whatever the parameters are. -/
def matRy90 : Mat3 := ⟨0#32, 0#32, ONE, 0#32, ONE, 0#32, MONE, 0#32, 0#32⟩
/-- The matrix of V-CL-16. -/
def matGeneral : Mat3 :=
  ⟨0x3F6FA55A#32, 0xBDA7BAFB#32, 0x3EAF1D43#32, 0x3E147A0C#32, 0x3F79D388#32, 0xBE271796#32, 0xBEA40C82#32,
   0x3E4F3326#32, 0x3F6CE819#32⟩
/-- Nine NaN entries: no entry has a code. -/
def matNaN : Mat3 := ⟨CNAN, CNAN, CNAN, CNAN, CNAN, CNAN, CNAN, CNAN, CNAN⟩
/-- The position (1, 2, 3). -/
def pos123 : Vec3 := ⟨0x3F800000#32, 0x40000000#32, 0x40400000#32⟩

/-- The reset state with one matrix loaded. -/
def withRot (m : Mat3) : State := { State.reset with inRot := m }

/-- The reset state with the given bytes at the start of the buffer. -/
def withFrame (l : List Byte) : State := writeBytes testP State.reset 0 l

/-- The reset state with a command in flight and n steps left. -/
def inFlight (i : Instr) (n : Nat) : State := { State.reset with inflight := some i, wait := n }

/-! ## Well-formedness and decoding -/

theorem test_wf_refuses_rsv : (CommandWord.mk 0x000001#24 0x00#8).rsvZero = false
    ∧ (CommandWord.mk 0x000001#24 0x00#8).wellFormed = false := by decide

theorem test_wf_refuses_op : (CommandWord.mk 0#24 0x06#8).opAssigned = false
    ∧ (CommandWord.mk 0#24 0x06#8).wellFormed = false := by decide

theorem test_decode_nop : decode 0b00000000_00000000_00000000_00000000#32 = .ok .nop := by decide
theorem test_decode_encode : decode 0b00000000_00000000_00000000_00000001#32 = .ok .encode := by decide
theorem test_decode_decode : decode 0b00000000_00000000_00000000_00000010#32 = .ok .decode := by decide
theorem test_decode_classify : decode 0b00000000_00000000_00000000_00000011#32 = .ok .classify := by decide
theorem test_decode_pack : decode 0b00000000_00000000_00000000_00000100#32 = .ok .pack := by decide
theorem test_decode_unpack : decode 0b00000000_00000000_00000000_00000101#32 = .ok .unpack := by decide

/-- V-CT-2 to V-CT-4. -/
theorem test_decode_refuses : decode 0x00000006#32 = .error .reservedOpcode
    ∧ decode 0x00000100#32 = .error .reservedBits ∧ decode 0xFFFFFFFF#32 = .error .reservedBits := by decide

/-- The word of a table row is run by the very next step. -/
theorem test_fetch_word_runs : step (State.reset.withFetchWord 32 0x4) = exec .pack (inFlight .pack 0) := rfl

/-! ## Commands -/

/-- V-CT-1. -/
theorem test_nop : statusWord (complete (inFlight .nop 0) (nopRule (inFlight .nop 0))) = 0x00000002#32 := by decide

/-- V-PK-1. -/
theorem test_pack : (complete State.reset (packRule { State.reset with codes := 0x10202#18 })).packed
    = 0x408080#24 := by decide

/-- V-PK-5: c4 = 1. -/
theorem test_pack_lane : (complete State.reset (packRule { State.reset with codes := 0x00040#18 })).packed
    = 0x000001#24 := by decide

/-- V-PK-2: padding bits are not read. -/
theorem test_unpack : (complete State.reset (unpackRule { State.reset with packed := 0x3F2140#24 })).codes
    = 0x04801#18 := by decide

/-- V-PK-4: code 3 raises nothing. -/
theorem test_unpack_code3 :
    let t := complete State.reset (unpackRule { State.reset with packed := 0xFFFFFF#24 })
    t.codes = 0x3FFFF#18 ∧ statusWord t = 0x00000002#32 := by decide

/-- V-CL-7: an angle of exactly EPS is big, an entry of -EPS not near 0. -/
theorem test_classify_eps : classify testP matX
    = ⟨.singleAxis, ⟨0x3727C5AC#32, 0x00000000#32, 0x80000000#32⟩, none, 1#2, 0x3727C5AC#32⟩ := by decide +kernel

/-- V-CL-11: codes and Euler triple in gimbal lock. -/
theorem test_classify_gimbal :
    let t := complete (withRot matRy90) (classifyRule testP (withRot matRy90))
    t.clsKind = 2#2 ∧ t.codes = 0x02110#18 ∧ t.clsEuler = ⟨0#32, 0x3FC90FDB#32, 0#32⟩ := by decide +kernel

/-- V-EN-2: the bytes of the frame. -/
theorem test_encode_axis_aligned :
    let t := complete (withRot matRz180) (encodeRule testP (withRot matRz180))
    t.wrPtr = 16#32 ∧ t.len = 16#8 ∧ t.tag = 2#8 ∧ t.codes = 0x10202#18 ∧
      (List.range 16).map (readByte testP t)
        = [2, 0, 0, 0, 0, 0, 0, 0, 0, 0, 0, 0, 0, 0x80, 0x80, 0x40].map (BitVec.ofNat 8) := by decide +kernel

/-- V-EN-10: the length is that of the chosen kind, and a fault writes nothing. -/
theorem test_encode_bounds :
    let s := { withRot matGeneral with wrPtr := BitVec.ofNat 32 (4096 - 16) }
    complete s (encodeRule testP s) = { s with bounds := true, done := true } := by decide +kernel

/-- V-DE-7: lanes to entries; padding bits not read. -/
theorem test_decode_axis_aligned :
    let s := withFrame ([2, 0, 0, 0, 0, 0, 0, 0, 0, 0, 0, 0, 0, 0x40, 0x21, 0x3F].map (BitVec.ofNat 8))
    let t := complete s (decodeRule testP s)
    t.outRot = matRx90 ∧ t.len = 16#8 ∧ statusWord t = 0x00000002#32 := by decide +kernel

/-- V-DE-11: a NaN sine makes its entries CNAN, and a sign flip of it 0xFFC00000. -/
theorem test_decode_euler_nan : eulerMatrix testP ⟨CNAN, 0#32, 0#32⟩
    = ⟨ONE, 0x80000000#32, 0#32, CNAN, CNAN, 0xFFC00000#32, CNAN, CNAN, CNAN⟩ := by decide +kernel

/-! ## binary32 and the bus -/

/-- 1/3 is 0x3EAAAAAB, and the tie 1 + 2^-24 goes to the even 1.0 (by hand). -/
theorem test_round : round32 testP (1 / 3) = 0x3EAAAAAB#32 ∧ round32 testP (1 + 1 / 2 ^ 24) = ONE := by decide +kernel

/-- V-CT-6. -/
theorem test_status_w1c : step { State.reset with done := true, illegal := true, bounds := true, malformed := true
                                                  host := [.write 4 0x0C#17 0x02#32] }
    = .next { State.reset with illegal := true, bounds := true, malformed := true } := rfl

/-- V-CT-3. -/
theorem test_illegal_word : step { State.reset with host := [.write 4 0x10#17 0x00000100#32] }
    = .next { State.reset with illegal := true, done := true } := rfl

/-! ## Witnesses: encoding, acceptance, steps -/

/-- Lemma of the witnesses: an index k bytes before the end of the buffer. -/
def endOff (k : Nat) : Word := BitVec.ofNat 32 (Config.hw.bufBytes - k)

theorem endOff_toNat {k : Nat} (h : k ≤ 25) : (endOff k).toNat + k = Config.hw.bufBytes := by
  have h1 := Config.hw.bufBytes_ge
  have h2 := Config.hw.bufBytes_le
  simp only [endOff, BitVec.toNat_ofNat]
  omega

/-- For StepRunsDecodedCommand. -/
theorem witness_step_runs : (inFlight .pack 0).resetAsserted = false ∧ (inFlight .pack 0).inflight = some .pack
    ∧ (inFlight .pack 0).wait = 0 ∧ decode 0x00000005#32 = .ok .unpack := by decide

/-- For CmdWriteAcceptsCommand. -/
theorem witness_accept : State.reset.resetAsserted = false ∧ State.reset.inflight = none
    ∧ decode 0x00000001#32 = .ok .encode
    ∧ { State.reset with host := [.write 4 0x10#17 0x00000001#32] }.host = .write 4 0x10#17 0x00000001#32 :: [] := by
  decide

/-- For ReservedWordIsIllegal: each way a word is reserved, at the edges, with STATUS 0. -/
theorem witness_reserved : (0x00000100#32).extractLsb' 8 24 ≠ 0#24 ∧ 0x06 ≤ ((0x00000006#32).extractLsb' 0 8).toNat
    ∧ 0x06 ≤ ((0x000000FF#32).extractLsb' 0 8).toNat ∧ statusWord State.reset = 0#32 := by decide

/-- For CmdWriteWhileBusyDropped. -/
theorem witness_dropped : (inFlight .encode 1).inflight = some .encode ∧ (inFlight .encode 1).wait = 0 + 1
    ∧ { inFlight .encode 1 with host := [.write 4 0x10#17 0x00000001#32] }.host
      = .write 4 0x10#17 0x00000001#32 :: [] := by decide

/-- For CommandsWriteOnlyTheirColumn and AtMostOneOfBoundsAndMalformed: a command that completes. -/
theorem witness_completes : exec .pack (inFlight .pack 0) = .next { State.reset with done := true }
    ∧ exec .decode (inFlight .decode 0) = .next (complete (inFlight .decode 0) (decodeRule Config.hw (inFlight .decode 0)))
    ∧ (inFlight .decode 0).bounds = false ∧ (inFlight .decode 0).malformed = false := ⟨rfl, rfl, rfl, rfl⟩

/-- For StatusBitsClearedOnlyByHostOrReset: a step that clears DONE, and one that keeps all four. -/
theorem witness_status_cleared :
    step { State.reset with done := true, host := [.write 4 0x0C#17 0x02#32] } = .next State.reset
    ∧ step { State.reset with illegal := true } = .next { State.reset with illegal := true } := ⟨rfl, rfl⟩

/-- For OnlyTheHostMovesCursor: a step that moves CURSOR, for each of the two causes. -/
theorem witness_cursor_moves :
    step { State.reset with host := [.write 4 0x18#17 5#32] } = .next { State.reset with cursor := 5#32 }
    ∧ step { State.reset with cursor := 5#32, resetAsserted := true, host := [.resetRelease] }
      = .next { State.reset with gen := 1 } := ⟨rfl, rfl⟩

/-- For OnlyEncodeAndHostWriteBuffer: a host write that changes byte 0. -/
theorem witness_buffer_changes :
    let s := { State.reset with buf := [(0, 1#8)], host := [.write 1 0x10000#17 2#32] }
    ∃ t, step s = .next t ∧ readByte Config.hw t 0 ≠ readByte Config.hw s 0 := by
  intro s
  have hb := Config.hw.bufBytes_ge
  have hp : placeOf Config.hw 0x10000 = .buffer 0 := placeOf_buffer (i := 0) (by omega)
  refine ⟨writeWindow Config.hw { s with host := [] } 0 ((leBytes 2#32).take 1), ?_, ?_⟩
  · rw [step_idle (s := s) rfl rfl]
    have ha : accessRefusal Config.hw { s with host := [] } 1 0x10000 = none := rfl
    show hostWrite Config.hw { s with host := [] } 1 (0x10000#17).toNat 2#32 = _
    rw [show (0x10000#17).toNat = 0x10000 from rfl]
    simp only [hostWrite, ha, hp, writePlace]
  · unfold writeWindow
    rw [readByte_writeBytes, List.take_of_length_le (by simp [leBytes]; omega)]
    decide

/-- For OnlyEncodeAndHostWriteBuffer: the release of reset may change byte 0. -/
theorem witness_buffer_reset :
    let s := { State.reset with buf := [(0, Config.hw.resetByte 1 0 + 1#8)], resetAsserted := true
                                host := [.resetRelease] }
    step s = .next { State.reset with gen := 1 } ∧
      readByte Config.hw { State.reset with gen := 1 } 0 ≠ readByte Config.hw s 0 := by
  refine ⟨rfl, ?_⟩
  show Config.hw.resetByte 1 0 ≠ Config.hw.resetByte 1 0 + 1#8
  generalize Config.hw.resetByte 1 0 = b
  revert b
  decide

/-- For ReadOnlyRegistersIgnoreHost: LEN changed by reset, and by a DECODE. -/
theorem witness_read_only_changes :
    Reg.access .len = .ro ∧
    (step { State.reset with len := 13#8, resetAsserted := true, host := [.resetRelease] }
      = .next { State.reset with gen := 1 } ∧
      readReg Config.hw { State.reset with gen := 1 } .len ≠ readReg Config.hw { State.reset with len := 13#8 } .len) ∧
    (let s := { inFlight .decode 0 with buf := [(0, 1#8)] }
     ∃ t, step s = .next t ∧ readReg Config.hw t .len ≠ readReg Config.hw s .len) := by
  refine ⟨rfl, ⟨rfl, by decide⟩, ?_⟩
  intro s
  have hb := Config.hw.bufBytes_ge
  refine ⟨complete s (decodeRule Config.hw s), rfl, ?_⟩
  have h0 : readByte Config.hw s s.cursor.toNat = 1#8 := rfl
  have h1 : s.cursor.toNat = 0 := rfl
  rw [decodeRule_eq, h0, h1, if_pos (show 0 + decodeLen 1#8 ≤ _ by simp [decodeLen]; omega)]
  decide

/-- For NopSetsOnlyDone. -/
theorem witness_nop : State.reset.illegal = false ∧ State.reset.bounds = false ∧ State.reset.malformed = false := by
  decide

/-- For PackAndUnpackInvert: both orders have their steps. -/
theorem witness_pack_unpack : ∃ t u v, exec .pack State.reset = .next t ∧ exec .unpack t = .next u
    ∧ exec .unpack State.reset = .next v ∧ ∃ w, exec .pack v = .next w := ⟨_, _, _, rfl, rfl, rfl, _, rfl⟩

/-! ## Witnesses: binary32 and the classifier -/

/-- For ValueOfBinary32Fields, OrderExtendsReals, NegFlipsSign and ThresholdTestsPartition: patterns of every class, the
edges of the finite ones among them. -/
theorem witness_classes : isFinite 0x7F7FFFFF#32 = true ∧ isFinite 0x00000001#32 = true ∧ isFinite NZERO = true
    ∧ isNaN 0x7F800001#32 = true ∧ isNaN 0xFFFFFFFF#32 = true ∧ isNaN EPS = false ∧ isInf 0x7F800000#32 = true
    ∧ isInf 0xFF800000#32 = true ∧ isNaN 0x7F800000#32 = false ∧ isNaN 0xFF800000#32 = false := by decide

/-- For Round32IsNearestTiesToEven: a real in range, a finite pattern as near and not the one chosen. -/
theorem witness_tie :
    let r : Rat := 1 + 1 / 2 ^ 24
    |r| < 2 ^ 128 - 2 ^ 103 ∧ isFinite 0x3F800001#32 = true ∧
      |r - val (round32 testP r)| = |r - val 0x3F800001#32| ∧ val 0x3F800001#32 ≠ val (round32 testP r) := by
  decide +kernel

/-- For Round32ExtremesAndExactness: the least real that rounds to the infinity, its negative, a nonzero finite value. -/
theorem witness_extremes : (2 ^ 128 - 2 ^ 103 : Rat) ≤ 2 ^ 128 - 2 ^ 103
    ∧ (-(2 ^ 128 - 2 ^ 103) : Rat) ≤ -(2 ^ 128 - 2 ^ 103) ∧ isFinite 0x80000001#32 = true
    ∧ val 0x80000001#32 ≠ 0 := by decide +kernel

/-- For EulerBranches: the edges of the three branches: below 1.0, NaN, 1.0, +inf, -1.0, -inf. -/
theorem witness_euler_branches :
    (0x3F7FFFFF#32).toNat % 2 ^ 31 < 0x3F800000 ∧ 0x7F800000 < (0xFF800001#32).toNat % 2 ^ 31
    ∧ ([0x3F800000#32, 0x7F800000#32].all fun w =>
        0x3F800000 ≤ w.toNat % 2 ^ 31 ∧ w.toNat % 2 ^ 31 ≤ 0x7F800000 ∧ w.toNat < 2 ^ 31)
    ∧ ([0xBF800000#32, 0xFF800000#32].all fun w =>
        0x3F800000 ≤ w.toNat % 2 ^ 31 ∧ w.toNat % 2 ^ 31 ≤ 0x7F800000 ∧ 2 ^ 31 ≤ w.toNat) := by decide

/-- The angles of a triple with their axis ids, as ClassifyIsOrderedChain writes them. -/
def angles (a : Vec3) : List (BitVec 2 × Word) := [(1#2, a.x), (2#2, a.y), (3#2, a.z)]

/-- The axis ids whose angle is big while the other two are small. -/
def onlyBig (a : Vec3) : List (BitVec 2 × Word) :=
  (angles a).filter fun q => big q.2 && ((angles a).filter fun q' => q'.1 != q.1).all fun q' => small q'.2

/-- For ClassifyIsOrderedChain: each of the four outcomes, and the three axes. -/
theorem witness_chain :
    ((angles (eulerXYZ testP identityMatrix)).all fun q => small q.2) = true ∧
    (((angles (eulerXYZ testP matRx90)).all fun q => small q.2) = false ∧
      (matRx90.entries.all fun e => (codeOf e).isSome) = true) ∧
    ((matX.entries.all fun e => (codeOf e).isSome) = false ∧ onlyBig (eulerXYZ testP matX) = [(1#2, EPS)]) ∧
    (onlyBig ⟨NZERO, EPS, NZERO⟩ = [(2#2, EPS)] ∧ onlyBig ⟨NZERO, NZERO, EPS⟩ = [(3#2, EPS)]) ∧
    ((matGeneral.entries.all fun e => (codeOf e).isSome) = false ∧
      ((angles (eulerXYZ testP matGeneral)).all fun q => small q.2) = false ∧
      onlyBig (eulerXYZ testP matGeneral) = []) := by
  decide +kernel

theorem euler_matRy90 (p : Params) : eulerXYZ p matRy90 = ⟨p.atan2_32 0#32 ONE, HALFPI32, PZERO⟩ := by
  have h1 : (isNaN ONE || (lt ONE ONE && lt MONE ONE)) = false := by decide +kernel
  have h2 : ge ONE ONE = true := by decide +kernel
  simp only [eulerXYZ, matRy90, h1, h2]
  rfl

/-- For ClassifyWritesClassification and EncodeWritesFrame, at the machine's own parameters: a matrix that is
AxisAligned, and one that is not. -/
theorem witness_classify_codes :
    (classify Config.hw matRy90).kind = .axisAligned ∧ (classify Config.hw matRy90).codes.isSome = true ∧
    (classify Config.hw matNaN).kind ≠ .axisAligned ∧ (classify Config.hw matNaN).codes = none := by
  have hs : small HALFPI32 = false := by decide +kernel
  have hi : isIdentity (eulerXYZ Config.hw matRy90) = false := by
    rw [euler_matRy90]
    simp [isIdentity, hs]
  have hc : axisAlignedCodes matRy90 = some ⟨0#2, 0#2, 1#2, 0#2, 1#2, 0#2, 2#2, 0#2, 0#2⟩ := by decide +kernel
  have hk : (classify Config.hw matRy90).codes.isSome = true := by
    simp [classify, hi, hc]
  have hn : axisAlignedCodes matNaN = none := by decide +kernel
  have hcn : (classify Config.hw matNaN).codes = none := by
    simp only [classify, hn]
    split
    · rfl
    · split <;> rfl
  refine ⟨(classify_codes_isSome _ _).1 hk, hk, ?_, hcn⟩
  intro h
  rw [← classify_codes_isSome, hcn] at h
  cases h

theorem lt_asymm' {x y : Word} (h : lt x y = true) : lt y x = false := by
  simp only [lt, Bool.and_eq_true, decide_eq_true_eq] at h
  simp only [lt, Bool.and_eq_false_iff, decide_eq_false_iff_not]
  exact .inr (not_lt.2 h.2.le)

/-- For ZeroMatrixIsIdentity and ClassifyIsMinimal: parameters with T3 and T4. -/
theorem witness_trig34 : TrigT3 testP ∧ TrigT4 testP := by
  have hz : lt PZERO NZERO = false ∧ lt NZERO PZERO = false ∧ lt PZERO PZERO = false := by decide +kernel
  have hd : NZERO ≠ PZERO ∧ PZERO ≠ NZERO := by decide
  have ne : ∀ w, lt PZERO w = true ∨ lt w PZERO = true → w ≠ PZERO ∧ w ≠ NZERO := by
    rintro w h
    constructor <;> rintro rfl <;> simp [hz] at h
  refine ⟨⟨by decide, by decide⟩, ?_, ?_, ?_, ?_⟩
  · intro x hx
    have hx' : ¬(x = NZERO ∨ lt x PZERO = true) := by
      rcases hx with rfl | hx
      · simp [hz, hd]
      · rw [lt_asymm' hx]
        simp [(ne x (.inl hx)).2]
    simp only [testP, testAtan2, if_neg hx', true_or, or_true, if_true, and_self]
  · intro x hx
    simp [testP, testAtan2, hx, hd]
  · intro y x hy hx
    have := ne y (.inl hy)
    simp [testP, testAtan2, this.1, this.2, hx, hy]
  · intro y x hy hx
    have := ne y (.inr hy)
    simp [testP, testAtan2, this.1, this.2, hx, hy, lt_asymm' hy]

/-- For ClassifyIsMinimal: a triple or matrix for each test that can match. -/
theorem witness_minimal : isIdentity (eulerXYZ testP identityMatrix) = true
    ∧ (axisAlignedCodes matRx90).isSome = true ∧ (singleAxis (eulerXYZ testP matX)).isSome = true := by decide +kernel

/-! ## Witnesses: ENCODE -/

/-- For EncodeWritesFrame and EncodeBoundsFault at the machine's own parameters: a frame of 16 bytes that ends at the end
of the buffer fits, one byte further on it faults, and so does the greatest WR_PTR. -/
theorem witness_encode_edge :
    (endOff 16).toNat + frameLen (classify Config.hw matRy90).kind = Config.hw.bufBytes ∧
    Config.hw.bufBytes < (endOff 15).toNat + frameLen (classify Config.hw matRy90).kind ∧
    ∀ m, Config.hw.bufBytes < (0xFFFFFFFF#32).toNat + frameLen (classify Config.hw m).kind := by
  have h1 := endOff_toNat (k := 16) (by omega)
  have h2 := endOff_toNat (k := 15) (by omega)
  have h3 := Config.hw.bufBytes_le
  rw [witness_classify_codes.1]
  refine ⟨by simp [frameLen]; omega, by simp [frameLen]; omega, fun m => ?_⟩
  have : (0xFFFFFFFF#32).toNat = 4294967295 := by decide
  omega

/-- For OnlyEncodeAndHostWriteBuffer: an ENCODE that changes byte 0, whose tag becomes 2. -/
theorem witness_buffer_encode :
    let s := { inFlight .encode 0 with inRot := matRy90, buf := [(0, 9#8)] }
    ∃ t, step s = .next t ∧ readByte Config.hw t 0 ≠ readByte Config.hw s 0 := by
  intro s
  have hb := Config.hw.bufBytes_ge
  have hk : (classify Config.hw s.inRot).kind = .axisAligned := witness_classify_codes.1
  have hf : s.wrPtr.toNat + frameLen (classify Config.hw s.inRot).kind ≤ Config.hw.bufBytes := by
    rw [hk]
    show 0 + 16 ≤ _
    omega
  refine ⟨complete s (encodeRule Config.hw s), rfl, ?_⟩
  rw [encodeRule_eq, if_pos hf, readByte_complete_encodeFrame, if_pos (show s.wrPtr.toNat ≤ 0 from Nat.le_refl 0)]
  show tagByte (classify Config.hw s.inRot).kind ≠ 9#8
  rw [hk]
  decide

/-- For FrameLayout, ClassifyIsOrderedChain and EncodeThenDecodeRoundTrip: a matrix of each kind. -/
theorem witness_kinds : (classify testP identityMatrix).kind = .identity ∧ (classify testP matRx90).kind = .axisAligned
    ∧ (classify testP matX).kind = .singleAxis ∧ (classify testP matGeneral).kind = .euler := by decide +kernel

/-- For EncodeThenDecodeRoundTrip: a frame of each kind that just fits. -/
theorem witness_round_trip_fits : ∀ m ∈ [identityMatrix, matRx90, matX, matGeneral],
    let s := { withRot m with wrPtr := BitVec.ofNat 32 (4096 - frameLen (classify testP m).kind) }
    s.wrPtr.toNat + frameLen (classify testP s.inRot).kind = testP.bufBytes := by decide +kernel

/-- For EncodeDependsOnItsInputs: two states that differ in all else; each takes its step; both frames fit, or with the
greatest WR_PTR neither does (`witness_encode_edge`). -/
theorem witness_encode_inputs :
    let s₁ := withRot matRy90
    let s₂ := { withRot matRy90 with codes := 7#18, cursor := 9#32, buf := [(3, 1#8)], ie := true }
    s₁.inPos = s₂.inPos ∧ s₁.inRot = s₂.inRot ∧ s₁.wrPtr = s₂.wrPtr ∧
    (∃ t₁ t₂, exec .encode s₁ = .next t₁ ∧ exec .encode s₂ = .next t₂) ∧
    s₁.wrPtr.toNat + frameLen (classify Config.hw s₁.inRot).kind ≤ Config.hw.bufBytes := by
  intro s₁ s₂
  refine ⟨rfl, rfl, rfl, ⟨_, _, rfl, rfl⟩, ?_⟩
  have hb := Config.hw.bufBytes_ge
  show 0 + frameLen (classify Config.hw matRy90).kind ≤ _
  rw [witness_classify_codes.1]
  simp [frameLen]
  omega

/-! ## Witnesses: DECODE -/

/-- A frame k bytes before the end of the buffer with the given tag, and one more byte behind its header. -/
def endFrame (k : Nat) (tag arg : Byte) : State :=
  { State.reset with
    cursor := endOff k
    buf := [(Config.hw.bufBytes - k, tag), (Config.hw.bufBytes - k + 13, arg)] }

theorem endFrame_tag {k : Nat} (h : k ≤ 25) (tag arg : Byte) :
    readByte Config.hw (endFrame k tag arg) (endFrame k tag arg).cursor.toNat = tag := by
  have := endOff_toNat h
  have hc : (endFrame k tag arg).cursor.toNat = Config.hw.bufBytes - k := by
    show (endOff k).toNat = _
    omega
  rw [hc]
  simp [readByte, Memory.read, endFrame, Memory.find]

theorem endFrame_arg {k : Nat} (h : k ≤ 25) (tag arg : Byte) :
    readByte Config.hw (endFrame k tag arg) ((endFrame k tag arg).cursor.toNat + 13) = arg := by
  have := endOff_toNat h
  have hc : (endFrame k tag arg).cursor.toNat = Config.hw.bufBytes - k := by
    show (endOff k).toNat = _
    omega
  rw [hc]
  simp [readByte, Memory.read, endFrame, Memory.find]

/-- For the DECODE obligations: a frame of each tag that ends at the end of the buffer. V-DE-15, V-DE-16. -/
theorem witness_decode_fits : ∀ q ∈ [(13, 1#8), (13, 4#8), (13, 255#8), (16, 2#8), (18, 3#8), (25, 0#8)], ∀ arg : Byte,
    (endFrame q.1 q.2 arg).cursor.toNat + q.1 = Config.hw.bufBytes ∧
    readByte Config.hw (endFrame q.1 q.2 arg) (endFrame q.1 q.2 arg).cursor.toNat = q.2 ∧ decodeLen q.2 = q.1 := by
  intro q hq arg
  have hk : q.1 ≤ 25 ∧ decodeLen q.2 = q.1 := by revert q; decide
  exact ⟨endOff_toNat hk.1, endFrame_tag hk.1 _ _, hk.2⟩

/-- For DecodeSingleAxisTag: each axis byte and the two beside them; for DecodeAxisAlignedTag: a byte with a code 3 and one
without. -/
theorem witness_decode_arg : (∀ a ∈ [0#8, 1#8, 2#8, 3#8, 4#8],
      readByte Config.hw (endFrame 18 3#8 a) ((endFrame 18 3#8 a).cursor.toNat + 13) = a) ∧
    (∀ a ∈ [0x40#8, 0xFF#8],
      readByte Config.hw (endFrame 16 2#8 a) ((endFrame 16 2#8 a).cursor.toNat + 13) = a) :=
  ⟨fun _ _ => endFrame_arg (by omega) _ _, fun _ _ => endFrame_arg (by omega) _ _⟩

/-- For DecodeBoundsFault: the header one byte too far (V-DE-14), and for each length a payload one byte too far
(V-DE-17, V-DE-18). -/
theorem witness_decode_faults : Config.hw.bufBytes < (endFrame 12 1#8 0#8).cursor.toNat + 13 ∧
    ∀ q ∈ [(15, 2#8), (17, 3#8), (24, 0#8)],
      Config.hw.bufBytes < (endFrame q.1 q.2 0#8).cursor.toNat
        + decodeLen (readByte Config.hw (endFrame q.1 q.2 0#8) (endFrame q.1 q.2 0#8).cursor.toNat) := by
  have h := endOff_toNat (k := 12) (by omega)
  refine ⟨by show _ < (endOff 12).toNat + 13; omega, ?_⟩
  intro q hq
  have hk : q.1 ≤ 25 ∧ q.1 < decodeLen q.2 := by revert q; decide
  rw [endFrame_tag hk.1]
  have := endOff_toNat hk.1
  show _ < (endOff q.1).toNat + _
  omega

/-- For EulerMatrixEntries: every sine and cosine finite; each one not finite; and the entries of V-DE-11 whose own
operands are finite beside an X angle NaN. -/
theorem witness_euler_entries :
    ([testP.sin32 ONE, testP.cos32 ONE, testP.sin32 PI32, testP.cos32 PI32].all isFinite) = true ∧
    isFinite (testP.sin32 CNAN) = false ∧ isFinite (testP.cos32 CNAN) = false ∧
    (eulerMatrix testP ⟨CNAN, PZERO, PZERO⟩).m00 = ONE ∧ (eulerMatrix testP ⟨CNAN, PZERO, PZERO⟩).m01 = NZERO := by
  decide +kernel

/-- For EulerMatrixAgreesWithAxisX: parameters with T1, T2 and T6, and a finite angle with its axis matrix. -/
theorem witness_trig126 : TrigT1 testP ∧ TrigT2 testP ∧ TrigT6 testP ∧ isFinite PI32 = true
    ∧ (axisMatrix testP 1#8 PI32).isSome = true := by
  have h1 : isFinite 0xB3BBBD2E#32 = true ∧ absval 0xB3BBBD2E#32 ≤ 1 := by decide +kernel
  have h2 : isFinite NZERO = true ∧ absval NZERO ≤ 1 := by decide +kernel
  have h3 : isFinite PZERO = true ∧ absval PZERO ≤ 1 := by decide +kernel
  have h4 : isFinite MONE = true ∧ absval MONE ≤ 1 := by decide +kernel
  have h5 : isFinite ONE = true ∧ absval ONE ≤ 1 := by decide +kernel
  have hn : ∀ x, isFinite x = true → isNaN x = false := by
    intro x hx
    simp only [isFinite, bne_iff_ne] at hx
    simp [isNaN, hx]
  refine ⟨⟨by decide, by decide⟩, ⟨by decide, by decide⟩, ⟨?_, ?_⟩, by decide, by decide⟩
  · intro x hx
    simp only [testP, hn x hx, Bool.false_eq_true, if_false]
    split
    · exact h1
    · split
      · exact h2
      · exact h3
  · intro x hx
    simp only [testP, hn x hx, Bool.false_eq_true, if_false]
    split
    · exact h4
    · exact h5

/-- For DecodeDependsOnFrameAlone: two states with the same frame and other bytes behind it. -/
theorem witness_decode_frame :
    let s₁ := { State.reset with buf := [(0, 1#8)] }
    let s₂ := { State.reset with buf := [(0, 1#8), (13, 9#8)], codes := 5#18 }
    s₁.cursor = s₂.cursor ∧ decodeLen (readByte Config.hw s₁ s₁.cursor.toNat) = 13 ∧ BufAgree Config.hw s₁ s₂ 0 13 ∧
    (∃ t₁ t₂, exec .decode s₁ = .next t₁ ∧ exec .decode s₂ = .next t₂) ∧ 0 + 13 ≤ Config.hw.bufBytes ∧
    s₁.malformed = s₂.malformed ∧ s₁.bounds = s₂.bounds := by
  intro s₁ s₂
  have hb := Config.hw.bufBytes_ge
  refine ⟨rfl, rfl, ?_, ⟨_, _, rfl, rfl⟩, by omega, rfl, rfl⟩
  intro a _ ha
  simp only [readByte, Memory.read, s₁, s₂, Memory.find]
  rw [if_neg (show ¬13 = a by omega)]

/-- For ExactMatrixSurvivesCodes. -/
theorem witness_exact : ∀ m ∈ [matRx90, matRz180, matRy90, Mat3.zero], (m.entries.all fun e =>
    e = 0x00000000#32 ∨ e = 0x3F800000#32 ∨ e = 0xBF800000#32) = true := by decide

/-! ## Witnesses: the invariant, the bus, liveness -/

/-- For StepKeepsLegalState: a legal state with a listed byte, an error bit and a command in flight, and its step. -/
theorem witness_legal : Inv { inFlight .nop 1 with malformed := true, len := 13#8, tag := 0xFF#8 } ∧
    step { inFlight .nop 1 with malformed := true, len := 13#8, tag := 0xFF#8 }
      = .next { inFlight .nop 0 with malformed := true, len := 13#8, tag := 0xFF#8 } :=
  ⟨⟨rfl, by decide, by decide, .inr (by decide), ⟨rfl, rfl⟩⟩, rfl⟩

/-- Parameters with `BUF_BYTES` = 25, so that a wider access can stand over the end of the buffer. -/
def leastP : Params := { testP with bufExtra := 0 }

/-- For BufferWriteReadsBack: each width at the start, at the last place it fits, and the two that stand over the end. -/
theorem witness_buffer_access : ∀ q ∈ [(1, 0), (2, 0), (4, 0), (1, 24), (2, 22), (4, 20), (2, 24), (4, 24)],
    (q.1 = 1 ∨ q.1 = 2 ∨ q.1 = 4) ∧ q.2 % q.1 = 0 ∧ q.2 < leastP.bufBytes ∧
    ∃ s : State, s.resetAsserted = false ∧ s.inflight = none ∧
      s.host = [.write q.1 (bufOff q.2) 0x12345678#32, .read q.1 (bufOff q.2)] := by
  intro q hq
  have : (q.1 = 1 ∨ q.1 = 2 ∨ q.1 = 4) ∧ q.2 % q.1 = 0 ∧ q.2 < leastP.bufBytes := by revert q; decide
  exact ⟨this.1, this.2.1, this.2.2, { State.reset with host := _ }, rfl, rfl, rfl⟩

/-- R62: a 32-bit access at the last byte of a 25-byte buffer writes and reads that byte alone. -/
theorem test_access_over_end :
    readWindow leastP (writeWindow leastP State.reset 24 (leBytes 0x12345678#32)) 4 24 = 0x00000078#32 ∧
    (writeWindow leastP State.reset 24 (leBytes 0x12345678#32)).buf = [(24, 0x78#8)] := by decide

/-- For RegisterReadReturnsValue: a read of OUT_ROT_22 while idle, and of STATUS while a command is in flight. -/
theorem witness_register_read :
    step { State.reset with outRot := matRz180, host := [.read 4 0xC0#17] }
      = .next { State.reset with outRot := matRz180, busData := some ONE } ∧
    step { inFlight .nop 1 with malformed := true, host := [.read 4 0x0C#17] }
      = .next { inFlight .nop 0 with malformed := true, busData := some 0x00000011#32 } := ⟨rfl, rfl⟩

/-- For RegisterWriteReadsBack: each class of reserved bits. -/
theorem witness_rw : ∀ r ∈ [Reg.ctrl, .wrPtr, .cursor, .codes, .packed, .inPosX, .inRot 0 0, .inRot 2 2],
    r.access = .rw ∧ ∃ s : State, s.resetAsserted = false ∧ s.inflight = none ∧
      s.host = [.write 4 (regOff r) 0xFFFFFFFF#32, .read 4 (regOff r)] := by
  intro r hr
  have : r.access = .rw := by revert r; decide
  exact ⟨this, { State.reset with host := _ }, rfl, rfl, rfl⟩

/-- For ReservedOffsetsInert: a reserved offset at each edge (0x44, 0x84, 0xC4, 0xFFFC), a read-only register (LEN), and
under `testP` the first and the last offset above the buffer. -/
theorem witness_reserved_offsets :
    (∀ off ∈ [0x44, 0x84, 0xC4, 0xFFFC], off < 0x10000 ∧ off % 4 = 0 ∧ regAt off = none) ∧
    (regAt 0x1C = some .len ∧ Reg.access .len = .ro) ∧
    (∀ q ∈ [(1, 0x11000#17), (2, 0x11000#17), (4, 0x11000#17), (1, 0x1FFFF#17), (2, 0x1FFFE#17), (4, 0x1FFFC#17)],
      0x10000 + testP.bufBytes ≤ q.2.toNat ∧ (q.1 = 1 ∨ q.1 = 2 ∨ q.1 = 4) ∧ q.2.toNat % q.1 = 0) := by decide

/-- For BusErrorsExactlyUnacceptedAccesses: each way an access is not accepted, and each kind that is, where they meet. -/
theorem witness_bus_errors :
    (3 ≠ 1 ∧ 3 ≠ 2 ∧ 3 ≠ 4) ∧ (0x10002#17).toNat % 4 ≠ 0 ∧ (0x10001#17).toNat % 2 ≠ 0 ∧
    ((0x0FFFF#17).toNat < 0x10000 ∧ 1 ≠ 4) ∧ ((0x10001#17).toNat % 1 = 0 ∧ 0x10000 ≤ (0x10001#17).toNat) ∧
    ((0x10002#17).toNat % 2 = 0 ∧ 0x10000 ≤ (0x10002#17).toNat) ∧ (0x0FFFC#17).toNat % 4 = 0 := by decide

/-- For BusyAccessContract: an allowed register, a forbidden one, and a buffer byte. -/
theorem witness_busy : Reg.cmd ∈ [Reg.id, .bufsz, .ctrl, .status, .cmd] ∧ Reg.len ∉ [Reg.id, .bufsz, .ctrl, .status, .cmd]
    ∧ 20 % 4 = 0 ∧ 20 < Config.hw.bufBytes ∧ (inFlight .nop 1).inflight = some .nop ∧ (inFlight .nop 1).wait = 0 + 1 := by
  have hb := Config.hw.bufBytes_ge
  exact ⟨by decide, by decide, rfl, by omega, rfl, rfl⟩

/-- For StatusWriteOneToClear and IrqRisesAndFalls: the host may write STATUS idle and while a command is in flight. -/
theorem witness_status_write : State.reset.inflight = none ∧ (inFlight .nop 1).wait ≠ 0
    ∧ { inFlight .nop 1 with host := [.write 4 0x0C#17 0x1E#32] }.host = .write 4 0x0C#17 0x1E#32 :: [] := by decide

/-- For ResetAbandonsAndClears: reset may come with a command in flight; an access while it is asserted. -/
theorem witness_reset : (inFlight .encode 1).wait ≠ 0 ∧ (assertReset (inFlight .encode 1)).resetAsserted = true
    ∧ step { State.reset with resetAsserted := true, host := [.read 4 0#17] } = .refused .accessInReset :=
  ⟨by decide, rfl, rfl⟩

/-- For InFlightCommandCompletes: two steps to go, the host polling, reading ID and writing CMD. -/
theorem witness_in_flight : ∀ e ∈ [HostEvent.poll, .read 4 0x00#17, .write 4 0x10#17 1#32], busySafe e := by
  intro e he
  simp only [List.mem_cons, List.not_mem_nil, or_false] at he
  rcases he with rfl | rfl | rfl
  · trivial
  · exact ⟨rfl, .id, rfl, rfl⟩
  · exact ⟨rfl, .cmd, rfl, rfl⟩

/-- For RunPseudoInstructionEnds: the actions of `RUN PACK`. -/
theorem witness_run : expandLine Config.hw (.run .pack) = [.write 4 0x10#17 0x00000004#32, .poll]
    ∧ State.reset.resetAsserted = false ∧ State.reset.inflight = none := ⟨rfl, rfl, rfl⟩

end Sys2Proof.Tests
end

section
/-! PROOF. binary32 (R9, R10) on the scale of patterns: the fields of a pattern as numbers, the magnitudes as one
strictly rising sequence in bits 30:0, and `roundMag` as the choice between two neighbours of that sequence. -/

namespace Sys2Proof.Machine

/-! ## The fields of a pattern as numbers -/

/-- Bits 30:0 as a number: the place of a pattern's magnitude among all magnitudes (R9). -/
def magBits (x : Word) : Nat := x.toNat % 2 ^ 31

theorem magBits_lt (x : Word) : magBits x < 2 ^ 31 := Nat.mod_lt _ (by decide)

theorem expField_eq (x : Word) : expField x = magBits x / 2 ^ 23 := by
  simp only [expField, magBits, BitVec.extractLsb'_toNat, Nat.shiftRight_eq_div_pow]
  omega

theorem fracField_eq (x : Word) : fracField x = magBits x % 2 ^ 23 := by
  simp only [fracField, magBits, BitVec.extractLsb'_toNat, Nat.shiftRight_eq_div_pow]
  omega

theorem signBit_eq (x : Word) : signBit x = decide (2 ^ 31 ≤ x.toNat) :=
  (BitVec.msb_eq_getLsbD_last x).symm.trans (BitVec.msb_eq_decide x)

/-- R9: the finite patterns are those below the infinity in bits 30:0. -/
theorem isFinite_iff (x : Word) : isFinite x = true ↔ magBits x < 0x7F800000 := by
  have := magBits_lt x
  rw [isFinite, bne_iff_ne, expField_eq]
  omega

/-- R9: `x[30:0] = 0x7F800000`. -/
theorem isInf_iff (x : Word) : isInf x = true ↔ magBits x = 0x7F800000 := by
  rw [isInf, beq_iff_eq, ← BitVec.toNat_inj, BitVec.extractLsb'_toNat]
  rfl

/-- R9: the NaN patterns are those above the infinity in bits 30:0. -/
theorem isNaN_iff (x : Word) : isNaN x = true ↔ 0x7F800000 < magBits x := by
  have := magBits_lt x
  rw [isNaN, Bool.and_eq_true, beq_iff_eq, bne_iff_ne, expField_eq, fracField_eq]
  omega

theorem isNaN_eq_false_iff (x : Word) : isNaN x = false ↔ magBits x ≤ 0x7F800000 := by
  rw [← Bool.not_eq_true, isNaN_iff, not_lt]

/-- A pattern that is not a NaN is an infinity or finite (R9). -/
theorem isInf_or_isFinite {x : Word} (h : isNaN x = false) : isInf x = true ∨ isFinite x = true := by
  rw [isNaN_eq_false_iff] at h
  rw [isInf_iff, isFinite_iff]
  omega

/-- A pattern is its sign bit and its magnitude bits. -/
theorem word_eq_of_sign_magBits {x y : Word} (hs : signBit x = signBit y) (hm : magBits x = magBits y) : x = y := by
  have := x.isLt
  have := y.isLt
  rw [signBit_eq, signBit_eq, decide_eq_decide] at hs
  simp only [magBits] at hm
  apply BitVec.eq_of_toNat_eq
  omega

/-! ## The magnitudes -/

/-- The magnitude at place m in units of 2^-149, in one formula for subnormal and normal places; the infinity's place
counts 2^128. -/
def gridUnits (m : Nat) : Nat := (m - (m / 2 ^ 23 - 1) * 2 ^ 23) * 2 ^ (m / 2 ^ 23 - 1)

/-- Places written as the rounding counts them: at most 24 bits q before the point, shifted by e; q = 2^24 is the carry
into the next exponent (R10). -/
theorem gridUnits_scale {e q : Nat} (hq : q ≤ 2 ^ 24) (he : e = 0 ∨ 2 ^ 23 ≤ q) :
    gridUnits (e * 2 ^ 23 + q) = q * 2 ^ e := by
  unfold gridUnits
  rcases hq.lt_or_eq with hlt | rfl
  · have hexp : (e * 2 ^ 23 + q) / 2 ^ 23 - 1 = e := by omega
    rw [hexp, Nat.add_sub_cancel_left]
  · have hexp : (e * 2 ^ 23 + 2 ^ 24) / 2 ^ 23 - 1 = e + 1 := by omega
    have hfrac : e * 2 ^ 23 + 2 ^ 24 - (e + 1) * 2 ^ 23 = 2 ^ 23 := by omega
    rw [hexp, hfrac, pow_succ]
    ring

/-- Every place is of the form of `gridUnits_scale`, short of the carry. -/
theorem exists_scale (m : Nat) : ∃ e q, m = e * 2 ^ 23 + q ∧ q < 2 ^ 24 ∧ (e = 0 ∨ 2 ^ 23 ≤ q) :=
  ⟨m / 2 ^ 23 - 1, m - (m / 2 ^ 23 - 1) * 2 ^ 23, by omega, by omega, by omega⟩

theorem gridUnits_strictMono : StrictMono gridUnits := by
  refine strictMono_nat_of_lt_succ fun m => ?_
  obtain ⟨e, q, rfl, hq, he⟩ := exists_scale m
  rw [add_assoc, gridUnits_scale hq.le he, gridUnits_scale hq (by omega)]
  exact Nat.mul_lt_mul_of_pos_right q.lt_succ_self (Nat.two_pow_pos e)

theorem gridUnits_of_subnormal {m : Nat} (h : m / 2 ^ 23 = 0) : gridUnits m = m % 2 ^ 23 := by
  rw [gridUnits, h, Nat.zero_sub, Nat.zero_mul, Nat.sub_zero, pow_zero, mul_one]
  omega

theorem gridUnits_of_normal {m : Nat} (h : m / 2 ^ 23 ≠ 0) :
    gridUnits m = (2 ^ 23 + m % 2 ^ 23) * 2 ^ (m / 2 ^ 23 - 1) := by
  have hfrac : m - (m / 2 ^ 23 - 1) * 2 ^ 23 = 2 ^ 23 + m % 2 ^ 23 := by omega
  rw [gridUnits, hfrac]

/-- The model's magnitude of a pattern is the one at its place. -/
theorem magUnits_eq (x : Word) : magUnits x = gridUnits (magBits x) := by
  rw [magUnits, expField_eq, fracField_eq]
  split
  next h => rw [gridUnits_of_subnormal h]
  next h => rw [gridUnits_of_normal h]

/-- The magnitude at place m, exact (R9). -/
def magVal (m : Nat) : Rat := gridUnits m / 2 ^ 149

theorem magVal_strictMono : StrictMono magVal := fun a b h => by
  have : (gridUnits a : Rat) < gridUnits b := by exact_mod_cast gridUnits_strictMono h
  unfold magVal
  gcongr

theorem magVal_nonneg (m : Nat) : 0 ≤ magVal m := by
  unfold magVal
  positivity

@[simp] theorem magVal_zero : magVal 0 = 0 := by simp [magVal, gridUnits]

theorem magVal_infinity : magVal 0x7F800000 = 2 ^ 128 := by norm_num [magVal, gridUnits]

/-- The greatest finite magnitude is 2^128 less one unit in the last place (R9). -/
theorem magVal_greatest : magVal 0x7F7FFFFF = 2 ^ 128 - 2 ^ 104 := by norm_num [magVal, gridUnits]

/-! ## Values -/

/-- The sign of a pattern as a factor. -/
def signFactor (x : Word) : Rat := if signBit x then -1 else 1

theorem abs_signFactor (x : Word) : |signFactor x| = 1 := by unfold signFactor; split <;> simp

theorem signFactor_eq_neg_one_iff (x : Word) : signFactor x = -1 ↔ signBit x = true := by
  unfold signFactor
  split <;> norm_num [*]

theorem val_eq (x : Word) : val x = signFactor x * magVal (magBits x) := by
  unfold val signFactor magVal
  rw [Rat.mkRat_eq_div, magUnits_eq]
  split <;> push_cast <;> ring

theorem abs_val (x : Word) : |val x| = magVal (magBits x) := by
  rw [val_eq, abs_mul, abs_signFactor, one_mul, abs_of_nonneg (magVal_nonneg _)]

/-- The infinity's place carries on the sequence of magnitudes, so `val` gives every pattern that is not a NaN its place
in the extended order of R10. -/
theorem ordVal_eq_val (x : Word) : ordVal x = val x := by
  unfold ordVal
  split
  next h =>
    rw [val_eq, (isInf_iff x).1 h, magVal_infinity, signFactor, Rat.mkRat_eq_div]
    split <;> norm_num
  next => rfl

/-- Two patterns of equal value are equal, but for the two zeros. -/
theorem eq_of_val_eq {x y : Word} (h : val x = val y) (h0 : val x ≠ 0) : x = y := by
  have hm : magBits x = magBits y := magVal_strictMono.injective (by rw [← abs_val, ← abs_val, h])
  refine word_eq_of_sign_magBits ?_ hm
  have hmag : magVal (magBits y) ≠ 0 := fun hz => h0 (by rw [h, val_eq, hz, mul_zero])
  rw [val_eq, val_eq, hm] at h
  rw [Bool.eq_iff_iff, ← signFactor_eq_neg_one_iff, mul_right_cancel₀ hmag h, signFactor_eq_neg_one_iff]

/-! ## The order -/

theorem lt_iff (x y : Word) : lt x y = true ↔ isNaN x = false ∧ isNaN y = false ∧ val x < val y := by
  simp [lt, ordVal_eq_val, and_assoc]

theorem ge_iff (x y : Word) : ge x y = true ↔ isNaN x = false ∧ isNaN y = false ∧ val y ≤ val x := by
  simp [ge, ordVal_eq_val, and_assoc]

theorem isNaN_of_isFinite {x : Word} (h : isFinite x = true) : isNaN x = false := by
  rw [isFinite_iff] at h
  rw [isNaN_eq_false_iff]
  omega

theorem val_posInf : val 0x7F800000#32 = 2 ^ 128 := by
  have hm : magBits 0x7F800000#32 = 0x7F800000 := rfl
  rw [val_eq, hm, magVal_infinity, signFactor, if_neg (by decide), one_mul]

theorem val_negInf : val 0xFF800000#32 = -2 ^ 128 := by
  have hm : magBits 0xFF800000#32 = 0x7F800000 := rfl
  rw [val_eq, hm, magVal_infinity, signFactor, if_pos (by decide)]
  norm_num

theorem abs_val_le_of_not_isNaN {x : Word} (h : isNaN x = false) : |val x| ≤ 2 ^ 128 := by
  rw [abs_val, ← magVal_infinity]
  exact magVal_strictMono.monotone ((isNaN_eq_false_iff x).1 h)

theorem abs_val_lt_of_isFinite {x : Word} (h : isFinite x = true) : |val x| < 2 ^ 128 := by
  rw [abs_val, ← magVal_infinity]
  exact magVal_strictMono ((isFinite_iff x).1 h)

theorem abs_val_of_isInf {x : Word} (h : isInf x = true) : |val x| = 2 ^ 128 := by
  rw [abs_val, (isInf_iff x).1 h, magVal_infinity]

/-- R10: equality in the extended order is equality of patterns or of finite values. -/
theorem val_eq_iff_of_not_isNaN {x y : Word} (hx : isNaN x = false) (hy : isNaN y = false) :
    val x = val y ↔ x = y ∨ (isFinite x = true ∧ isFinite y = true ∧ val x = val y) := by
  refine ⟨fun h => ?_, fun h => h.elim (congrArg val) fun hv => hv.2.2⟩
  rcases isInf_or_isFinite hx with hinf | hfx
  · have habs := abs_val_of_isInf hinf
    exact .inl (eq_of_val_eq h fun h0 => by norm_num [h0] at habs)
  rcases isInf_or_isFinite hy with hinf | hfy
  · exact absurd (abs_val_of_isInf hinf) (h ▸ (abs_val_lt_of_isFinite hfx).ne)
  · exact .inr ⟨hfx, hfy, h⟩

/-- Settles O20: in every clause the comparisons are those of `val`, which is ±2^128 at the infinities and between them
elsewhere. -/
theorem orderExtendsReals : Obligations.OrderExtendsReals := by
  refine ⟨fun x y hx hy => ?_, fun x hx => ?_, ?_, fun x hx => ?_, fun x y h => ?_, fun x y hx hy => ⟨?_, ?_⟩⟩
  · simp [lt_iff, ge_iff, isNaN_of_isFinite hx, isNaN_of_isFinite hy]
  · obtain ⟨hlow, hhigh⟩ := abs_lt.1 (abs_val_lt_of_isFinite hx)
    rw [lt_iff, lt_iff, val_posInf, val_negInf]
    exact ⟨⟨isNaN_of_isFinite hx, by decide, hhigh⟩, by decide, isNaN_of_isFinite hx, hlow⟩
  · rw [lt_iff, val_posInf, val_negInf]
    exact ⟨by decide, by decide, by norm_num⟩
  · obtain ⟨hlow, hhigh⟩ := abs_le.1 (abs_val_le_of_not_isNaN hx)
    rw [← Bool.not_eq_true, ← Bool.not_eq_true, lt_iff, lt_iff, val_posInf, val_negInf]
    exact ⟨fun h => absurd h.2.2 hhigh.not_gt, fun h => absurd h.2.2 hlow.not_gt⟩
  · rcases h with h | h <;> simp [lt, ge, h]
  · rw [Bool.eq_iff_iff, Bool.not_eq_true', ← Bool.not_eq_true, ge_iff, lt_iff]
    simp [hx, hy]
  · simp only [ge_iff, lt_iff, hx, hy, true_and, le_iff_lt_or_eq]
    exact or_congr_right (eq_comm.trans (val_eq_iff_of_not_isNaN hx hy))

/-! ## neg -/

theorem magBits_neg (x : Word) : magBits (neg x) = magBits x := by
  rw [magBits, neg, BitVec.toNat_xor, Nat.xor_mod_two_pow]
  exact Nat.xor_zero _

theorem signBit_neg (x : Word) : signBit (neg x) = !signBit x := by simp [signBit, neg]

theorem neg_neg_word (x : Word) : neg (neg x) = x := by simp [neg]

theorem val_neg (x : Word) : val (neg x) = -val x := by
  rw [val_eq, val_eq, magBits_neg, signFactor, signFactor, signBit_neg]
  cases signBit x <;> simp

/-- Settles O21: every class of pattern is a range of the bits that `neg` keeps. -/
theorem negFlipsSign : Obligations.NegFlipsSign := fun x =>
  ⟨signBit_neg x, magBits_neg x, neg_neg_word x,
    by rw [Bool.eq_iff_iff, isNaN_iff, isNaN_iff, magBits_neg],
    by rw [Bool.eq_iff_iff, isInf_iff, isInf_iff, magBits_neg],
    by rw [Bool.eq_iff_iff, isFinite_iff, isFinite_iff, magBits_neg],
    fun _ => val_neg x⟩

/-! ## The fields of a value -/

/-- R9: a magnitude by the exponent and fraction at its place. -/
theorem magVal_fields (m : Nat) :
    magVal m = if m / 2 ^ 23 = 0 then ((m % 2 ^ 23 : Nat) : Rat) / 2 ^ 23 * (1 / 2 ^ 126)
      else (1 + ((m % 2 ^ 23 : Nat) : Rat) / 2 ^ 23) * (2 ^ (m / 2 ^ 23) / 2 ^ 127) := by
  split
  next h =>
    rw [magVal, gridUnits_of_subnormal h]
    ring
  next h =>
    have hpow : (2 : Rat) ^ (m / 2 ^ 23) = 2 ^ (m / 2 ^ 23 - 1) * 2 := by
      rw [← pow_succ, Nat.sub_add_cancel (Nat.pos_of_ne_zero h)]
    rw [magVal, gridUnits_of_normal h, hpow]
    push_cast
    ring

/-- Settles O19: the fields of the pattern are those of its place among the magnitudes. -/
theorem valueOfBinary32Fields : Obligations.ValueOfBinary32Fields := by
  intro x _
  have hexp : x.toNat / 2 ^ 23 % 256 = magBits x / 2 ^ 23 := by unfold magBits; omega
  have hfrac : x.toNat % 2 ^ 23 = magBits x % 2 ^ 23 := by unfold magBits; omega
  have hsign : signFactor x = if x.toNat < 2 ^ 31 then 1 else -1 := by
    rw [signFactor, signBit_eq, ← ite_not]
    simp
  rw [hexp, hfrac, ← hsign, ← magVal_fields, val_eq]

/-! ## Rounding a magnitude -/

/-- The rounding of R10 on magnitudes, for t from place a up to the next one: the nearer place, and the even one where
both are as near. -/
def nearestPlace (t : Rat) (a : Nat) : Nat :=
  if magVal a + magVal (a + 1) < 2 * t ∨ (magVal a + magVal (a + 1) = 2 * t ∧ a % 2 = 1) then a + 1 else a

/-- The shift of `roundMag` leaves at most 24 bits before the point. -/
theorem shifted_quotient_lt {units d shift : Nat} (hs : shift = (units / d).log2 - 23) :
    units / (d * 2 ^ shift) < 2 ^ 24 := by
  have hlog : units / d < 2 ^ (24 + shift) :=
    Nat.lt_log2_self.trans_le (Nat.pow_le_pow_right (by decide) (by omega))
  rwa [pow_add, ← Nat.div_lt_iff_lt_mul (Nat.two_pow_pos shift), Nat.div_div_eq_div_mul] at hlog

/-- The shift of `roundMag` leaves at least 24 bits before the point, or is 0. -/
theorem le_shifted_quotient {units d shift : Nat} (hs : shift = (units / d).log2 - 23) :
    shift = 0 ∨ 2 ^ 23 ≤ units / (d * 2 ^ shift) := by
  refine or_iff_not_imp_left.2 fun hne => ?_
  have hexp : (units / d).log2 = 23 + shift := by omega
  have hlog : 2 ^ (23 + shift) ≤ units / d := hexp ▸ Nat.log2_self_le fun h0 => by
    rw [h0, Nat.log2_zero] at hexp
    omega
  rwa [pow_add, ← Nat.le_div_iff_mul_le (Nat.two_pow_pos shift), Nat.div_div_eq_div_mul] at hlog

/-- `roundMag` counted in units of 2^-149 over d: the quotient lies between two neighbouring places, and the rest is
compared with half their distance. -/
theorem roundMag_units (n : Nat) {d : Nat} (hd : 0 < d) :
    ∃ a, d * gridUnits a ≤ n * 2 ^ 149 ∧ n * 2 ^ 149 < d * gridUnits (a + 1) ∧
      roundMag n d = min (if d * gridUnits a + d * gridUnits (a + 1) < 2 * (n * 2 ^ 149) ∨
        (d * gridUnits a + d * gridUnits (a + 1) = 2 * (n * 2 ^ 149) ∧ a % 2 = 1) then a + 1 else a) 0x7F800000 := by
  unfold roundMag
  generalize n * 2 ^ 149 = scaled
  extract_lets units shift unit low rest q
  have hunits : scaled = units := rfl
  have hlow : low < 2 ^ 24 := shifted_quotient_lt rfl
  have hnormal : shift = 0 ∨ 2 ^ 23 ≤ low := le_shifted_quotient rfl
  have hbelow : d * gridUnits (shift * 2 ^ 23 + low) = unit * low := by
    rw [gridUnits_scale hlow.le hnormal, mul_comm low, ← mul_assoc]
  have habove : d * gridUnits (shift * 2 ^ 23 + low + 1) = unit * low + unit := by
    rw [add_assoc, gridUnits_scale hlow (by omega), mul_comm (low + 1), ← mul_assoc, mul_add_one]
  have hdivision : unit * low + rest = units := Nat.div_add_mod units unit
  have hrest : rest < unit := Nat.mod_lt _ (Nat.mul_pos hd (Nat.two_pow_pos shift))
  have hq : q = if unit < 2 * rest ∨ (2 * rest = unit ∧ low % 2 = 1) then low + 1 else low := rfl
  clear_value units shift unit low rest q
  refine ⟨shift * 2 ^ 23 + low, by omega, by omega, ?_⟩
  rw [hbelow, habove, hunits, hq]
  congr 1
  split <;> split <;> omega

/-- `roundMag` on rationals: t = n / d lies between two neighbouring magnitudes and goes to the nearest, capped at the
infinity (R10). -/
theorem roundMag_eq_nearestPlace (n : Nat) {d : Nat} (hd : 0 < d) :
    ∃ a, magVal a ≤ (n : Rat) / d ∧ (n : Rat) / d < magVal (a + 1) ∧
      roundMag n d = min (nearestPlace (n / d) a) 0x7F800000 := by
  obtain ⟨a, hlow, hhigh, hround⟩ := roundMag_units n hd
  have hd' : (d : Rat) ≠ 0 := by positivity
  have hscale : (0 : Rat) < d * 2 ^ 149 := by positivity
  have hmag : ∀ m, magVal m * (d * 2 ^ 149) = ((d * gridUnits m : Nat) : Rat) := by
    intro m
    rw [magVal]
    push_cast
    field_simp
  have hquot : (n : Rat) / d * (d * 2 ^ 149) = ((n * 2 ^ 149 : Nat) : Rat) := by
    rw [← mul_assoc, div_mul_cancel₀ _ hd', Nat.cast_mul, Nat.cast_pow, Nat.cast_ofNat]
  refine ⟨a, ?_, ?_, ?_⟩
  · rw [← mul_le_mul_iff_left₀ hscale, hmag, hquot]
    exact_mod_cast hlow
  · rw [← mul_lt_mul_iff_left₀ hscale, hmag, hquot]
    exact_mod_cast hhigh
  · have hlt : magVal a + magVal (a + 1) < 2 * (n / d) ↔
        d * gridUnits a + d * gridUnits (a + 1) < 2 * (n * 2 ^ 149) := by
      rw [← mul_lt_mul_iff_left₀ hscale, add_mul, mul_assoc, hmag, hmag, hquot]
      norm_cast
    have heq : magVal a + magVal (a + 1) = 2 * (n / d) ↔
        d * gridUnits a + d * gridUnits (a + 1) = 2 * (n * 2 ^ 149) := by
      rw [← mul_left_inj' hscale.ne', add_mul, mul_assoc, hmag, hmag, hquot]
      norm_cast
    rw [hround, nearestPlace]
    simp only [hlt, heq]

/-- `nearestPlace` is nearest among all places, and a place as near as it is chosen only if even. -/
theorem nearestPlace_nearest {t : Rat} {a : Nat} (hlow : magVal a ≤ t) (hhigh : t < magVal (a + 1)) (m : Nat) :
    |t - magVal (nearestPlace t a)| ≤ |t - magVal m| ∧
      (|t - magVal (nearestPlace t a)| = |t - magVal m| → m ≠ nearestPlace t a → nearestPlace t a % 2 = 0) := by
  have hbelow : |t - magVal a| = t - magVal a := abs_of_nonneg (by linarith)
  have habove : |t - magVal (a + 1)| = magVal (a + 1) - t := by rw [abs_sub_comm]; exact abs_of_pos (by linarith)
  rcases Nat.lt_or_ge a m with hm | hm
  · have hmono : magVal (a + 1) ≤ magVal m := magVal_strictMono.monotone hm
    have habs : |t - magVal m| = magVal m - t := by rw [abs_sub_comm]; exact abs_of_pos (by linarith)
    unfold nearestPlace
    split
    next hup =>
      rw [habove, habs]
      refine ⟨by linarith, fun heq hne => absurd (magVal_strictMono.injective ?_) hne⟩
      linarith
    next hdown =>
      rw [not_or, not_lt, not_and] at hdown
      rw [hbelow, habs]
      refine ⟨by linarith, fun heq _ => ?_⟩
      have := hdown.2 (by linarith)
      omega
  · have hmono : magVal m ≤ magVal a := magVal_strictMono.monotone hm
    have habs : |t - magVal m| = t - magVal m := abs_of_nonneg (by linarith)
    unfold nearestPlace
    split
    next hup =>
      rw [habove, habs]
      refine ⟨?_, fun heq _ => ?_⟩
      · rcases hup with h | ⟨h, -⟩ <;> linarith
      · rcases hup with h | ⟨-, h⟩
        · linarith
        · omega
    next hdown =>
      rw [hbelow, habs]
      refine ⟨by linarith, fun heq hne => absurd (magVal_strictMono.injective ?_) hne⟩
      linarith

/-! ## round32 -/

/-- The place `round32` gives a rational: bits 30:0 of its result. -/
def roundPlace (r : Rat) : Nat := roundMag r.num.natAbs r.den

theorem roundPlace_eq_nearestPlace (r : Rat) :
    ∃ a, magVal a ≤ |r| ∧ |r| < magVal (a + 1) ∧ roundPlace r = min (nearestPlace |r| a) 0x7F800000 := by
  have habs : |r| = r.num.natAbs / r.den := by rw [Rat.abs_def, Rat.divInt_eq_div, Int.cast_natCast, Int.cast_natCast]
  rw [habs]
  exact roundMag_eq_nearestPlace r.num.natAbs r.den_pos

theorem roundPlace_le (r : Rat) : roundPlace r ≤ 0x7F800000 := by
  obtain ⟨a, -, -, h⟩ := roundPlace_eq_nearestPlace r
  exact h ▸ min_le_right _ _

theorem round32_toNat (p : Params) (r : Rat) :
    (round32 p r).toNat = (decide (r < 0) && (roundPlace r != 0 || p.negZero r)).toNat * 2 ^ 31 + roundPlace r := by
  have hlt : roundMag r.num.natAbs r.den < 2 ^ 31 := (roundPlace_le r).trans_lt (by decide)
  simp only [round32, append_toNat, BitVec.toNat_ofBool, BitVec.toNat_ofNat, Nat.mod_eq_of_lt hlt, roundPlace]

theorem magBits_round32 (p : Params) (r : Rat) : magBits (round32 p r) = roundPlace r := by
  have := roundPlace_le r
  rw [magBits, round32_toNat]
  omega

theorem signBit_round32 (p : Params) (r : Rat) :
    signBit (round32 p r) = (decide (r < 0) && (roundPlace r != 0 || p.negZero r)) := by
  have := roundPlace_le r
  rw [signBit_eq, round32_toNat]
  cases decide (r < 0) && (roundPlace r != 0 || p.negZero r)
  · exact decide_eq_false (by rw [Bool.toNat_false]; omega)
  · exact decide_eq_true (by rw [Bool.toNat_true]; omega)

/-- The value of a rounded rational has its sign; the free sign of a zero does not show in the value (log 5). -/
theorem val_round32 (p : Params) (r : Rat) :
    val (round32 p r) = if r < 0 then -magVal (roundPlace r) else magVal (roundPlace r) := by
  rw [val_eq, magBits_round32, signFactor, signBit_round32]
  by_cases h0 : roundPlace r = 0
  · simp [h0]
  · by_cases hr : r < 0 <;> simp [h0, hr]

theorem abs_sub_val_round32 (p : Params) (r : Rat) : |r - val (round32 p r)| = |(|r| - magVal (roundPlace r))| := by
  rw [val_round32]
  split
  next hr =>
    rw [abs_of_neg hr, ← abs_neg]
    congr 1
    ring
  next hr => rw [abs_of_nonneg (not_lt.1 hr)]

/-- A rational whose magnitude stands at a place goes to that place. -/
theorem roundPlace_of_abs_eq {r : Rat} {m : Nat} (h : |r| = magVal m) (hm : m ≤ 0x7F800000) : roundPlace r = m := by
  obtain ⟨a, hlow, hhigh, hround⟩ := roundPlace_eq_nearestPlace r
  rw [h] at hlow hhigh hround
  have hma : m = a := by
    have := magVal_strictMono.le_iff_le.1 hlow
    have := magVal_strictMono.lt_iff_lt.1 hhigh
    omega
  subst hma
  rw [hround, nearestPlace, if_neg, min_eq_left hm]
  rintro (hup | ⟨htie, -⟩) <;> linarith

theorem roundPlace_zero : roundPlace 0 = 0 := roundPlace_of_abs_eq (by simp) (by decide)

/-- Half a unit in the last place below 2^128 lies midway between the greatest finite magnitude and the infinity's. -/
theorem magVal_greatest_add_infinity : magVal 0x7F7FFFFF + magVal (0x7F7FFFFF + 1) = 2 * (2 ^ 128 - 2 ^ 103) := by
  rw [magVal_greatest, magVal_infinity]
  norm_num

/-- R10: below the overflow threshold the nearest place is a finite pattern's. -/
theorem roundPlace_eq_of_lt {r : Rat} (hr : |r| < 2 ^ 128 - 2 ^ 103) :
    ∃ a, magVal a ≤ |r| ∧ |r| < magVal (a + 1) ∧ roundPlace r = nearestPlace |r| a ∧ roundPlace r < 0x7F800000 := by
  obtain ⟨a, hlow, hhigh, hround⟩ := roundPlace_eq_nearestPlace r
  suffices hfin : nearestPlace |r| a < 0x7F800000 by
    rw [min_eq_left hfin.le] at hround
    exact ⟨a, hlow, hhigh, hround, hround ▸ hfin⟩
  have ha : a < 0x7F800000 := by
    rw [← magVal_strictMono.lt_iff_lt, magVal_infinity]
    linarith
  unfold nearestPlace
  split
  next hup =>
    suffices a ≠ 0x7F7FFFFF by omega
    rintro rfl
    rw [magVal_greatest_add_infinity] at hup
    rcases hup with h | ⟨h, -⟩ <;> linarith
  next => exact ha

/-- R10: from the overflow threshold on the place is the infinity's. -/
theorem roundPlace_eq_of_ge {r : Rat} (hr : 2 ^ 128 - 2 ^ 103 ≤ |r|) : roundPlace r = 0x7F800000 := by
  obtain ⟨a, hlow, hhigh, hround⟩ := roundPlace_eq_nearestPlace r
  rw [hround, min_eq_right_iff]
  have ha : 0x7F7FFFFF ≤ a := by
    rw [← Nat.lt_succ_iff, ← magVal_strictMono.lt_iff_lt, magVal_greatest]
    linarith
  unfold nearestPlace
  split
  next => omega
  next hdown =>
    suffices a ≠ 0x7F7FFFFF by omega
    rintro rfl
    rw [magVal_greatest_add_infinity, not_or, not_lt] at hdown
    exact hdown.2 ⟨by linarith [hdown.1], by decide⟩

/-- Settles O22: the distance to a pattern is at least the distance to its magnitude's place, where `nearestPlace` is
nearest; a pattern of the chosen magnitude and the other sign is as near only to 0, which rounds to a zero. -/
theorem round32IsNearestTiesToEven : Obligations.Round32IsNearestTiesToEven := by
  intro p r hr
  obtain ⟨a, hlow, hhigh, hplace, hfin⟩ := roundPlace_eq_of_lt hr
  refine ⟨by rwa [isFinite_iff, magBits_round32], fun y _ => ?_⟩
  obtain ⟨hnear, htie⟩ := nearestPlace_nearest hlow hhigh (magBits y)
  rw [← hplace, ← abs_sub_val_round32 p] at hnear htie
  have hdist : |(|r| - magVal (magBits y))| ≤ |r - val y| := abs_val y ▸ abs_abs_sub_abs_le r (val y)
  refine ⟨hnear.trans hdist, fun heq hne => ?_⟩
  have heven : roundPlace r % 2 = 0 := by
    by_cases hm : magBits y = roundPlace r
    · have hopposite : val y = -val (round32 p r) := by
        refine (abs_eq_abs.1 ?_).resolve_left hne
        rw [abs_val, abs_val, magBits_round32, hm]
      rw [hopposite, abs_eq_abs] at heq
      have hr0 : r = 0 := by
        rcases heq with h | h
        · exact absurd (by linarith) hne
        · linarith
      rw [hr0, roundPlace_zero]
    · exact htie (hnear.antisymm (heq ▸ hdist)) hm
  rw [← magBits_round32 p] at heven
  unfold magBits at heven
  omega

/-- A finite value other than 0 has the sign of its pattern. -/
theorem val_neg_iff {x : Word} (h0 : val x ≠ 0) : val x < 0 ↔ signBit x = true := by
  have hpos : 0 < magVal (magBits x) := by rw [← abs_val]; exact abs_pos.2 h0
  rw [val_eq, signFactor]
  cases signBit x <;> simp [hpos, hpos.le]

/-- Settles O23: the overflow places, the place of 0, and a value's own place with its pattern's sign. -/
theorem round32ExtremesAndExactness : Obligations.Round32ExtremesAndExactness := by
  intro p
  refine ⟨fun r hr => ?_, fun r hr => ?_, ?_, fun x hx h0 => ?_⟩
  · have hpos : ¬r < 0 := not_lt.2 (le_trans (by norm_num) hr)
    apply BitVec.eq_of_toNat_eq
    rw [round32_toNat, roundPlace_eq_of_ge (hr.trans (le_abs_self r))]
    simp [hpos]
  · have hneg : r < 0 := hr.trans_lt (by norm_num)
    apply BitVec.eq_of_toNat_eq
    rw [round32_toNat, roundPlace_eq_of_ge ((le_neg_of_le_neg hr).trans (neg_le_abs r))]
    simp [hneg]
  · apply BitVec.eq_of_toNat_eq
    rw [round32_toNat, roundPlace_zero]
    simp [PZERO]
  · have hplace : roundPlace (val x) = magBits x :=
      roundPlace_of_abs_eq (abs_val x) ((isFinite_iff x).1 hx).le
    refine word_eq_of_sign_magBits ?_ (by rw [magBits_round32, hplace])
    have hm : magBits x ≠ 0 := fun hz => h0 (by rw [val_eq, hz, magVal_zero, mul_zero])
    rw [signBit_round32, hplace, Bool.eq_iff_iff, ← val_neg_iff h0]
    simp [hm]

/-! ## Buffer reads -/

/-- R65: the value of four bytes, the lowest index first. -/
theorem leWord_toNat (b0 b1 b2 b3 : Byte) :
    (leWord b0 b1 b2 b3).toNat = b0.toNat + 2 ^ 8 * b1.toNat + 2 ^ 16 * b2.toNat + 2 ^ 24 * b3.toNat := by
  unfold leWord
  rw [append_toNat, append_toNat, append_toNat]
  ring

/-- Settles O36, by the number four concatenated bytes are. -/
theorem memReadIsLittleEndian : Obligations.MemReadIsLittleEndian := fun _ _ _ => leWord_toNat _ _ _ _

end Sys2Proof.Machine
end

section
/-! PROOF. The state family: what the host's accesses and the commands leave of the registers (R20 to R40, R63), and the
invariant of every step (R28 to R31, R41, R43, R250). -/

namespace Sys2Proof.Machine

/-! ## What a register write leaves alone -/

/-- The fields behind the registers of access RO (R28 to R33, R38, R39). -/
def State.readOnly (s : State) : BitVec 8 × BitVec 8 × BitVec 2 × BitVec 2 × Word × Vec3 × Vec3 × Mat3 :=
  (s.len, s.tag, s.clsKind, s.clsAxis, s.clsAngle, s.clsEuler, s.outPos, s.outRot)

/-- What a register of access RO reads as depends on those fields alone (R20). -/
theorem readReg_of_readOnly_eq (p : Params) {s t : State} {r : Reg} (hro : r.access = .ro)
    (h : t.readOnly = s.readOnly) : readReg p t r = readReg p s r := by
  simp only [State.readOnly, Prod.mk.injEq] at h
  obtain ⟨hlen, htag, hkind, haxis, hangle, heuler, hpos, hrot⟩ := h
  cases r with
  | ctrl | status | cmd | wrPtr | cursor | codes | packed | inPosX | inPosY | inPosZ | inRot => cases hro
  | _ => simp only [readReg, hlen, htag, hkind, haxis, hangle, heuler, hpos, hrot]

/-- No event bit of STATUS goes from 1 to 0 (R24). -/
structure FlagsStay (s t : State) : Prop where
  done : s.done = true → t.done = true
  illegal : s.illegal = true → t.illegal = true
  bounds : s.bounds = true → t.bounds = true
  malformed : s.malformed = true → t.malformed = true

theorem writeReg_cmd (p : Params) (s : State) (v : Word) : writeReg p s .cmd v = writeCmd p s v := rfl

theorem writeReg_status (p : Params) (s : State) (v : Word) : writeReg p s .status v = ackStatus s v := rfl

theorem writeReg_of_ro (p : Params) (s : State) {r : Reg} (v : Word) (hr : r.access = .ro) : writeReg p s r v = s := by
  rw [writeReg, hr]

theorem writeReg_of_rw (p : Params) (s : State) {r : Reg} (v : Word) (hr : r.access = .rw) :
    writeReg p s r v = storeReg s v r := by
  rw [writeReg, hr]

theorem writeReg_readOnly (p : Params) (s : State) (r : Reg) (v : Word) :
    (writeReg p s r v).readOnly = s.readOnly := by
  cases r with
  | cmd =>
    rw [writeReg_cmd]
    rcases writeCmd_cases p s v with ⟨_, h⟩ | ⟨_, _, _, h⟩ | ⟨_, _, _, h⟩ <;> rw [h] <;> rfl
  | _ => rfl

/-- Every write but the one to STATUS keeps the events (R24). -/
theorem writeReg_flagsStay (p : Params) (s : State) {r : Reg} (v : Word) (hr : r ≠ .status) :
    FlagsStay s (writeReg p s r v) := by
  cases r with
  | status => exact absurd rfl hr
  | cmd =>
    rw [writeReg_cmd]
    rcases writeCmd_cases p s v with ⟨_, h⟩ | ⟨_, _, _, h⟩ | ⟨_, _, _, h⟩ <;> rw [h] <;>
      exact ⟨by simp, by simp, by simp, by simp⟩
  | _ => exact ⟨id, id, id, id⟩

theorem writeReg_cursor_of_ne (p : Params) (s : State) {r : Reg} (v : Word) (hr : r ≠ .cursor) :
    (writeReg p s r v).cursor = s.cursor := by
  cases r with
  | cursor => exact absurd rfl hr
  | cmd =>
    rw [writeReg_cmd]
    rcases writeCmd_cases p s v with ⟨_, h⟩ | ⟨_, _, _, h⟩ | ⟨_, _, _, h⟩ <;> simp [h]
  | _ => rfl

/-! ## What a host action leaves alone -/

section
variable {p : Params} {s t : State} {e : HostEvent}

/-- Of the host's actions only the release of reset changes a read-only register (R20; log 6). -/
theorem hostAction_readOnly (h : hostAction p s e = .next t) : e = .resetRelease ∨ t.readOnly = s.readOnly := by
  rcases hostAction_next_cases h with ⟨_, _, rfl⟩ | ⟨_, rfl⟩ | ⟨he, _⟩ | ⟨v, r, _, _, _, rfl⟩ |
    ⟨_, _, _, _, _, _, _, _, _, _, rfl⟩
  · exact .inr rfl
  · exact .inr rfl
  · exact .inl he
  · exact .inr (writeReg_readOnly p s r v)
  · exact .inr rfl

/-- Of the host's actions only the release of reset and a write to STATUS clear an event (R24; log 6). -/
theorem hostAction_flags (h : hostAction p s e = .next t) :
    FlagsStay s t ∨ e = .resetRelease ∨ ∃ v, e = .write 4 (regOff .status) v ∧ t = ackStatus s v := by
  rcases hostAction_next_cases h with ⟨_, _, rfl⟩ | ⟨_, rfl⟩ | ⟨he, _⟩ | ⟨v, r, he, _, _, rfl⟩ |
    ⟨_, _, _, _, _, _, _, _, _, _, rfl⟩
  · exact .inl ⟨id, id, id, id⟩
  · exact .inl ⟨id, id, id, id⟩
  · exact .inr (.inl he)
  · by_cases hr : r = .status
    · subst hr
      exact .inr (.inr ⟨v, he, writeReg_status p s v⟩)
    · exact .inl (writeReg_flagsStay p s v hr)
  · exact .inl ⟨id, id, id, id⟩

/-- Of the host's actions only the release of reset and a write to CURSOR move CURSOR (R27; log 6). -/
theorem hostAction_cursor (h : hostAction p s e = .next t) :
    t.cursor = s.cursor ∨ e = .resetRelease ∨ ∃ v, e = .write 4 (regOff .cursor) v ∧ t.cursor = v := by
  rcases hostAction_next_cases h with ⟨_, _, rfl⟩ | ⟨_, rfl⟩ | ⟨he, _⟩ | ⟨v, r, he, _, _, rfl⟩ |
    ⟨_, _, _, _, _, _, _, _, _, _, rfl⟩
  · exact .inl rfl
  · exact .inl rfl
  · exact .inr (.inl he)
  · by_cases hr : r = .cursor
    · subst hr
      exact .inr (.inr ⟨v, he, rfl⟩)
    · exact .inl (writeReg_cursor_of_ne p s v hr)
  · exact .inl rfl

end

/-- With nothing in flight the step is the host's turn (R70). -/
theorem step_of_idle {s : State} (hi : s.inflight = none) : step s = hostStep Config.hw s := by
  refine step_host ?_
  unfold turn
  split <;> simp [hi]

/-! ## What a completion can do -/

/-- R212: everything the rule of a command can end in. -/
theorem commandRule_cases (i : Instr) (s : State) :
    commandRule i s = .raisedBounds ∨
    (∃ codes packed, commandRule i s = .finished { s with codes, packed }) ∨
    commandRule i s = .finished (writeClassification s (classify Config.hw s.inRot)) ∨
    (∃ c tag, commandRule i s = .finished (decodeFrame Config.hw s c tag)) ∨
    (s.wrPtr.toNat + frameLen (classify Config.hw s.inRot).kind ≤ Config.hw.bufBytes ∧
      commandRule i s = .finished (encodeFrame Config.hw s (classify Config.hw s.inRot) s.wrPtr.toNat
        (frameLen (classify Config.hw s.inRot).kind))) := by
  cases i with
  | nop => exact .inr (.inl ⟨s.codes, s.packed, rfl⟩)
  | pack => exact .inr (.inl ⟨s.codes, _, rfl⟩)
  | unpack => exact .inr (.inl ⟨_, s.packed, rfl⟩)
  | classify => exact .inr (.inr (.inl rfl))
  | decode =>
    rw [commandRule, decodeRule_eq]
    split
    · exact .inr (.inr (.inr (.inl ⟨_, _, rfl⟩)))
    · exact .inl rfl
  | encode =>
    rw [commandRule, encodeRule_eq]
    split
    next hfits => exact .inr (.inr (.inr (.inr ⟨hfits, rfl⟩)))
    next => exact .inl rfl

/-- R200: no command moves CURSOR. -/
theorem complete_commandRule_cursor (i : Instr) (s : State) : (complete s (commandRule i s)).cursor = s.cursor := by
  rcases commandRule_cases i s with h | ⟨_, _, h⟩ | h | ⟨_, _, h⟩ | ⟨_, h⟩ <;> simp [h]

/-- R24: a completion sets events and clears none. -/
theorem complete_commandRule_flagsStay (i : Instr) (s : State) : FlagsStay s (complete s (commandRule i s)) := by
  rcases commandRule_cases i s with h | ⟨_, _, h⟩ | h | ⟨_, _, h⟩ | ⟨_, h⟩ <;> rw [h] <;> constructor <;>
    simp +contextual

/-! ## The invariant -/

/-- A legal state stays legal where the read-only registers are kept and the buffer and the wait count are in order. -/
theorem Inv.of_readOnly_eq {s t : State} (h : Inv s) (hk : t.readOnly = s.readOnly)
    (hbuf : Memory.wf Config.hw t.gen t.buf = true) (hwait : t.inflight = none → t.wait = 0)
    (hreset : t.resetAsserted = true → t.inflight = none) : Inv t := by
  simp only [State.readOnly, Prod.mk.injEq] at hk
  obtain ⟨hlen, htag, hkind, haxis, hangle, heuler, _⟩ := hk
  refine ⟨hbuf, hwait, hreset, ?_, ?_⟩
  · unfold lenTagLegal
    rw [hlen, htag]
    exact h.len_tag
  · unfold clsLegal
    rw [hkind, haxis, hangle, heuler]
    exact h.cls

/-- The list of host actions is no part of a legal state, and of the wait count only that it is 0 while idle. -/
theorem Inv.with_host_wait {s : State} (h : Inv s) (host : List HostEvent) {w : Nat} (hw : s.inflight = none → w = 0) :
    Inv { s with host := host, wait := w } :=
  h.of_readOnly_eq rfl h.buf_wf hw h.reset_idle

/-- R28, R29, R91: the length that ENCODE gives a frame is the one DECODE reads from its tag. -/
theorem decodeLen_tagByte (k : EncodingKind) : decodeLen (tagByte k) = frameLen k := by cases k <;> rfl

/-- R117: the single-axis test answers an axis id, the angle about it, and that angle is big. -/
theorem singleAxis_legal {a : Vec3} {axis : BitVec 2} {angle : Word} (h : singleAxis a = some (axis, angle)) :
    axisComponent a axis = some angle ∧ big angle = true := by
  unfold singleAxis at h
  simp only [Bool.and_eq_true] at h
  split at h
  next hx =>
    cases h
    exact ⟨rfl, hx.1.1⟩
  split at h
  next hy =>
    cases h
    exact ⟨rfl, hy.1.2⟩
  split at h
  next hz =>
    cases h
    exact ⟨rfl, hz.2⟩
  next => cases h

/-- R31, R32, R117: a classification gives the CLS registers values that agree. -/
theorem clsLegal_of_classify (p : Params) (m : Mat3) {t : State} (hkind : t.clsKind = kindCode (classify p m).kind)
    (haxis : t.clsAxis = (classify p m).axis) (hangle : t.clsAngle = (classify p m).angle)
    (heuler : t.clsEuler = (classify p m).euler) : clsLegal t := by
  unfold clsLegal
  rw [hkind, haxis, hangle, heuler]
  unfold classify
  simp only
  split
  next => exact ⟨rfl, rfl⟩
  split
  next => exact ⟨rfl, rfl⟩
  split
  next h => exact singleAxis_legal h
  next => exact ⟨rfl, rfl⟩

/-- The state after the release of reset is legal, whatever the draws and the host (R250). -/
theorem inv_released (gen accepted : Nat) (host : List HostEvent) (busData : Option Word) :
    Inv { State.reset with gen, accepted, host, busData } where
  buf_wf := Memory.wf_reset _ _
  wait_idle _ := rfl
  reset_idle _ := rfl
  len_tag := .inl ⟨rfl, rfl⟩
  cls := ⟨rfl, rfl⟩

/-- The completion of a command with no step left to wait keeps a legal state legal. -/
theorem Inv.complete {s : State} (h : Inv s) (hw : s.wait = 0) (i : Instr) : Inv (complete s (commandRule i s)) := by
  rcases commandRule_cases i s with hc | ⟨_, _, hc⟩ | hc | ⟨_, _, hc⟩ | ⟨hfits, hc⟩ <;> rw [hc]
  · exact h.of_readOnly_eq rfl h.buf_wf (fun _ => hw) fun _ => rfl
  · exact h.of_readOnly_eq rfl h.buf_wf (fun _ => hw) fun _ => rfl
  · exact ⟨h.buf_wf, fun _ => hw, fun _ => rfl, h.len_tag, clsLegal_of_classify _ _ rfl rfl rfl rfl⟩
  · exact ⟨h.buf_wf, fun _ => hw, fun _ => rfl, .inr rfl, h.cls⟩
  · rw [← frameBytes_length _ _ s.inPos] at hfits
    have hbuf := Memory.wf_writeBytes _ s _ _ hfits h.buf_wf
    exact ⟨by simpa using hbuf, by simp [hw], by simp, .inr (by simp [decodeLen_tagByte]),
      clsLegal_of_classify Config.hw s.inRot (by simp) (by simp) (by simp) (by simp)⟩

/-- A register write outside reset keeps a legal state legal; only an accepted command touches the wait count (R211). -/
theorem Inv.writeReg {s : State} (h : Inv s) (hr : s.resetAsserted = false) (p : Params) (r : Reg) (v : Word) :
    Inv (writeReg p s r v) := by
  cases r with
  | cmd =>
    rw [writeReg_cmd]
    rcases writeCmd_cases p s v with ⟨_, hc⟩ | ⟨_, _, _, hc⟩ | ⟨_, _, _, hc⟩ <;> rw [hc]
    · exact h.of_readOnly_eq rfl h.buf_wf h.wait_idle h.reset_idle
    · exact h.of_readOnly_eq rfl h.buf_wf nofun (by simp [hr])
    · exact h.of_readOnly_eq rfl h.buf_wf h.wait_idle h.reset_idle
  | _ => exact h.of_readOnly_eq rfl h.buf_wf h.wait_idle h.reset_idle

/-- R61, R62: a host write to the buffer window stays inside the buffer. -/
theorem Inv.writeWindow {s : State} (h : Inv s) {i : Nat} (hi : i < Config.hw.bufBytes) (l : List Byte) :
    Inv (writeWindow Config.hw s i l) := by
  have hlen : i + (l.take (Config.hw.bufBytes - i)).length ≤ Config.hw.bufBytes := by
    rw [List.length_take]
    omega
  exact h.of_readOnly_eq rfl (Memory.wf_writeBytes _ s _ _ hlen h.buf_wf) h.wait_idle h.reset_idle

/-- A host action keeps a legal state legal. -/
theorem Inv.hostAction {s t : State} (h : Inv s) {e : HostEvent} (ha : hostAction Config.hw s e = .next t) : Inv t := by
  rcases hostAction_next_cases ha with ⟨_, _, rfl⟩ | ⟨_, rfl⟩ | ⟨_, rfl⟩ | ⟨v, r, _, hr, _, rfl⟩ |
    ⟨_, _, _, _, _, _, _, _, _, hi, rfl⟩
  · exact h.of_readOnly_eq rfl h.buf_wf h.wait_idle h.reset_idle
  · exact h.of_readOnly_eq rfl h.buf_wf (fun _ => rfl) fun _ => rfl
  · unfold releaseReset
    split
    · exact inv_released _ _ _ _
    · exact h
  · exact h.writeReg hr _ r v
  · exact h.writeWindow hi _

/-- Settles O47: a completion, an empty turn, or a host action on the state whose wait count the turn has counted down. -/
theorem stepKeepsLegalState : Obligations.StepKeepsLegalState := by
  intro s t h hstep
  rcases step_next_cases hstep with ⟨i, _, _, hw, rfl⟩ | ⟨hnil, w, rfl⟩ | ⟨e, rest, w, _, ha, _, hw⟩
  · exact h.complete hw i
  · refine h.with_host_wait s.host fun hi => ?_
    rw [step_of_idle hi, hostStep, hnil] at hstep
    injection hstep with heq
    exact (congrArg State.wait heq).symm.trans (h.wait_idle hi)
  · exact (h.with_host_wait rest fun hi => (hw hi).trans (h.wait_idle hi)).hostAction ha

/-! ## Who changes STATUS, CURSOR and the read-only registers -/

/-- Settles O10: a completion and every write but the one to STATUS keep the set bits; that one clears those written 1. -/
theorem statusBitsClearedOnlyByHostOrReset : Obligations.StatusBitsClearedOnlyByHostOrReset := by
  intro s t hstep
  rcases step_next_cases hstep with ⟨i, _, _, _, rfl⟩ | ⟨_, _, rfl⟩ | ⟨e, rest, w, hh, ha, _⟩
  · obtain ⟨hd, hi, hb, hm⟩ := complete_commandRule_flagsStay i s
    exact .inl ⟨hd, hi, hb, hm⟩
  · exact .inl ⟨id, id, id, id⟩
  · rcases hostAction_flags ha with ⟨hd, hi, hb, hm⟩ | rfl | ⟨v, rfl, rfl⟩
    · exact .inl ⟨hd, hi, hb, hm⟩
    · exact .inr (.inl ⟨rest, hh⟩)
    · exact .inr (.inr ⟨v, rest, hh, by simp +contextual⟩)

/-- Settles O12: no command moves CURSOR (R200), and of the register writes only its own. -/
theorem onlyTheHostMovesCursor : Obligations.OnlyTheHostMovesCursor := by
  intro s t hstep hne
  rcases step_next_cases hstep with ⟨i, _, _, _, rfl⟩ | ⟨_, _, rfl⟩ | ⟨e, rest, w, hh, ha, _⟩
  · exact absurd (complete_commandRule_cursor i s) hne
  · exact absurd rfl hne
  · rcases hostAction_cursor ha with hkept | rfl | ⟨v, rfl, hv⟩
    · exact absurd hkept hne
    · exact .inr ⟨rest, hh⟩
    · exact .inl ⟨v, rest, hh, hv⟩

/-- Settles O14: a host action other than the release of reset keeps the read-only registers. -/
theorem readOnlyRegistersIgnoreHost : Obligations.ReadOnlyRegistersIgnoreHost := by
  intro s t r hro hstep hne
  rcases step_next_cases hstep with ⟨i, _, hi, hw, rfl⟩ | ⟨_, _, rfl⟩ | ⟨e, rest, w, hh, ha, _⟩
  · exact .inl ⟨i, hi, hw, exec_eq i s⟩
  · exact absurd (readReg_of_readOnly_eq _ hro rfl) hne
  · rcases hostAction_readOnly ha with rfl | hkept
    · exact .inr ⟨rest, hh⟩
    · exact absurd (readReg_of_readOnly_eq _ hro hkept) hne

/-! ## What a register reads as -/

/-- The pending actions, the wait count and the last data read are seen by no register (R20; log 1, log 2, log 8). -/
theorem readReg_with_host (p : Params) (s : State) (host : List HostEvent) (wait : Nat) (busData : Option Word) (r : Reg) :
    readReg p { s with host, wait, busData } r = readReg p s r := by cases r <;> rfl

/-- R24: no register but STATUS sees an acknowledgement. -/
theorem readReg_ackStatus_of_ne (p : Params) (s : State) (v : Word) {r : Reg} (hr : r ≠ .status) :
    readReg p (ackStatus s v) r = readReg p s r := by
  cases r with
  | status => exact absurd rfl hr
  | _ => rfl

/-- R37: an entry of IN_ROT reads as what was last written to it, and a write leaves the others. -/
theorem Mat3.get_set (m : Mat3) (v : Word) (r c r' c' : Fin 3) :
    (m.set v r c).get r' c' = if r' = r ∧ c' = c then v else m.get r' c' := by
  fin_cases r <;> fin_cases c <;> fin_cases r' <;> fin_cases c' <;> rfl

/-- The low n bits of a word, stored as a field and read back. -/
theorem zeroExtend_extractLsb' (v : Word) {n : Nat} (hn : n ≤ 32) :
    (v.extractLsb' 0 n).zeroExtend 32 = v &&& BitVec.ofNat 32 (2 ^ n - 1) := by
  have hpow : 2 ^ n ≤ 2 ^ 32 := Nat.pow_le_pow_right (by decide) hn
  have hmask : (2 ^ n - 1) % 2 ^ 32 = 2 ^ n - 1 := Nat.mod_eq_of_lt (by omega)
  apply BitVec.eq_of_toNat_eq
  rw [BitVec.toNat_and, BitVec.toNat_ofNat, hmask, Nat.and_two_pow_sub_one_eq_mod, BitVec.zeroExtend_eq_setWidth,
    BitVec.toNat_setWidth_of_le hn, BitVec.extractLsb'_toNat, Nat.shiftRight_zero]

/-- The bits of a read-write register that are in use; the others are reserved (R23, R34, R35). -/
def Reg.mask (r : Reg) : Word :=
  if r = .ctrl then 0x00000001#32 else if r = .codes then 0x0003FFFF#32
  else if r = .packed then 0x00FFFFFF#32 else 0xFFFFFFFF#32

/-- R20, R63: a read-write register reads as what was stored to it, reserved bits 0. -/
theorem readReg_storeReg_same (p : Params) (s : State) {r : Reg} (v : Word) (hr : r.access = .rw) :
    readReg p (storeReg s v r) r = v &&& r.mask := by
  have hall : v &&& 0xFFFFFFFF#32 = v := BitVec.and_allOnes
  cases r with
  | ctrl =>
    show 0#31 ++ BitVec.ofBool (v.getLsbD 0) = v &&& 1#32
    rw [BitVec.and_one_eq_setWidth_ofBool_getLsbD]
    cases v.getLsbD 0 <;> rfl
  | codes => exact zeroExtend_extractLsb' v (by decide)
  | packed => exact zeroExtend_extractLsb' v (by decide)
  | inRot r c =>
    show (s.inRot.set v r c).get r c = _
    rw [Mat3.get_set, if_pos ⟨rfl, rfl⟩]
    exact hall.symm
  | wrPtr | cursor | inPosX | inPosY | inPosZ => exact hall.symm
  | _ => cases hr

/-- R63: a store to a register leaves what every other register reads as; two entries of IN_ROT share a field, all others
have their own. -/
theorem readReg_storeReg_of_ne (p : Params) (s : State) {r r' : Reg} (v : Word) (hne : r' ≠ r) :
    readReg p (storeReg s v r) r' = readReg p s r' := by
  cases r with
  | inRot a b => cases r' with
    | inRot a' b' =>
      show (s.inRot.set v a b).get a' b' = s.inRot.get a' b'
      rw [Mat3.get_set, if_neg]
      rintro ⟨rfl, rfl⟩
      exact hne rfl
    | _ => rfl
  | _ => cases r' <;> (try contradiction) <;> rfl

/-- R63, R74: a store to a register leaves the buffer, and what decides whose turn it is. -/
theorem storeReg_frame (s : State) (v : Word) (r : Reg) :
    (storeReg s v r).resetAsserted = s.resetAsserted ∧ (storeReg s v r).inflight = s.inflight ∧
      (storeReg s v r).host = s.host ∧ ∀ p, BufKept p s (storeReg s v r) := by
  cases r <;> exact ⟨rfl, rfl, rfl, fun _ _ => rfl⟩

/-- Settles O50: two idle steps, the store and the read of the register it changed. -/
theorem registerWriteReadsBack : Obligations.RegisterWriteReadsBack := by
  intro s r v hreset hidle hrw hhost
  obtain ⟨hreset', hidle', hhost', hbuf⟩ := storeReg_frame { s with host := [.read 4 (regOff r)] } v r
  have hwrite : step s = .next (storeReg { s with host := [.read 4 (regOff r)] } v r) := by
    rw [step_idle hidle hhost, ← writeReg_of_rw Config.hw _ v hrw]
    exact hostWrite_reg Config.hw v hreset (.inl hidle)
  have hread := (step_idle (hidle'.trans hidle) hhost').trans
    (hostRead_reg Config.hw (hreset'.trans hreset) (.inl (hidle'.trans hidle)))
  refine ⟨_, (run_succ 1 hwrite).trans (run_succ 0 hread), ?_, fun r' hne => ?_, hbuf Config.hw⟩
  · exact congrArg some ((readReg_with_host _ _ _ _ _ r).trans (readReg_storeReg_same _ _ v hrw))
  · calc readReg Config.hw _ r'
        = readReg Config.hw (storeReg { s with host := [.read 4 (regOff r)] } v r) r' := readReg_with_host _ _ _ _ _ r'
      _ = readReg Config.hw { s with host := [.read 4 (regOff r)] } r' := readReg_storeReg_of_ne _ _ v hne
      _ = readReg Config.hw s r' := readReg_with_host _ s _ _ _ r'

/-- Settles O55: a write to STATUS is `ackStatus`, which reads as `statusBits_ack` says. -/
theorem statusWriteOneToClear : Obligations.StatusWriteOneToClear := by
  intro s v rest hreset hturn hhost
  have hbusy : s.resetAsserted = true ∨ s.inflight = none ∨ s.wait ≠ 0 := .inr hturn
  obtain ⟨w, hstep⟩ := step_host_action hbusy hhost
  refine ⟨ackStatus { s with host := rest, wait := w } v, ?_, ?_, ?_, fun r hr => ?_, fun _ => rfl⟩
  · exact hstep.trans (hostWrite_reg (r := .status) Config.hw v hreset (.inr rfl))
  · exact statusBits_ack s.busy s.done s.illegal s.bounds s.malformed v
  · exact statusBits_reserved _ _ _ _ _
  · exact (readReg_ackStatus_of_ne _ _ v hr).trans (readReg_with_host _ s _ _ _ r)

/-- Settles O56, by the bits of STATUS and CTRL. -/
theorem busyAndIrqFollowRegisters : Obligations.BusyAndIrqFollowRegisters := by
  intro p s
  have hstatus : readReg p s .status = statusBits s.busy s.done s.illegal s.bounds s.malformed := statusWord_eq s
  have hctrl : readReg p s .ctrl = ctrlWord s := rfl
  rw [hstatus, hctrl, statusBits_busy, statusBits_done, ctrlWord_ie]
  exact ⟨Option.isSome_iff_ne_none, rfl⟩

/-! ## The register map as numbers -/

/-- Registers with their offsets and values as numbers (R20). -/
def readings (p : Params) (s : State) (l : List Reg) : List (Nat × Nat) :=
  l.map fun r => (r.offset, (readReg p s r).toNat)

theorem readings_append (p : Params) (s : State) (l l' : List Reg) :
    readings p s (l ++ l') = readings p s l ++ readings p s l' := List.map_append

theorem readings_with_host (p : Params) (s : State) (host : List HostEvent) (wait : Nat) (l : List Reg) :
    readings p { s with host, wait } l = readings p s l :=
  List.map_congr_left fun r _ => by rw [readReg_with_host p s host wait s.busData r]

/-- The registers that R260 keeps to an idle block. -/
def idleRegs : List Reg :=
  [.wrPtr, .cursor, .len, .tag, .clsKind, .clsAxis, .clsAngle, .codes, .packed, .clsEulerX, .clsEulerY, .clsEulerZ,
   .inPosX, .inPosY, .inPosZ, .inRot 0 0, .inRot 0 1, .inRot 0 2, .inRot 1 0, .inRot 1 1, .inRot 1 2, .inRot 2 0,
   .inRot 2 1, .inRot 2 2, .outPosX, .outPosY, .outPosZ, .outRot 0 0, .outRot 0 1, .outRot 0 2, .outRot 1 0,
   .outRot 1 1, .outRot 1 2, .outRot 2 0, .outRot 2 1, .outRot 2 2]

/-- R24: STATUS as a number. -/
theorem statusWord_toNat (s : State) : (statusWord s).toNat =
    s.inflight.isSome.toNat + 2 * s.done.toNat + 4 * s.illegal.toNat + 8 * s.bounds.toNat
      + 16 * s.malformed.toNat := by
  have hbits : ∀ b d i o m : Bool, (statusBits b d i o m).toNat =
      b.toNat + 2 * d.toNat + 4 * i.toNat + 8 * o.toNat + 16 * m.toNat := by decide
  exact hbits s.busy s.done s.illegal s.bounds s.malformed

/-- R23: CTRL as a number. -/
theorem ctrlWord_toNat (s : State) : (ctrlWord s).toNat = s.ie.toNat := by
  unfold ctrlWord
  cases s.ie <;> rfl

/-- R22: BUFSZ as a number, since the buffer has at most 65536 bytes. -/
theorem bufsz_toNat (p : Params) : (BitVec.ofNat 32 p.bufBytes).toNat = p.bufBytes := by
  have := p.bufBytes_le
  rw [BitVec.toNat_ofNat]
  omega

/-- R21 to R25: the registers the host may read at any time. -/
theorem readings_busyAllowed (p : Params) (s : State) :
    readings p s [.id, .bufsz, .ctrl, .status, .cmd] =
      [(0x00, 0x41544301), (0x04, p.bufBytes), (0x08, s.ie.toNat),
       (0x0C, s.inflight.isSome.toNat + 2 * s.done.toNat + 4 * s.illegal.toNat + 8 * s.bounds.toNat
          + 16 * s.malformed.toNat), (0x10, 0)] := by
  simp only [readings, List.map_cons, List.map_nil, readReg, bufsz_toNat, ctrlWord_toNat, statusWord_toNat]
  rfl

/-- R26 to R39: the registers the host may read while the block is idle; a narrow field reads as its own number. -/
theorem readings_idleRegs (p : Params) (s : State) :
    readings p s idleRegs =
      [(0x14, s.wrPtr.toNat), (0x18, s.cursor.toNat), (0x1C, s.len.toNat), (0x20, s.tag.toNat),
       (0x24, s.clsKind.toNat), (0x28, s.clsAxis.toNat), (0x2C, s.clsAngle.toNat), (0x3C, s.codes.toNat),
       (0x40, s.packed.toNat), (0x30, s.clsEuler.x.toNat), (0x34, s.clsEuler.y.toNat), (0x38, s.clsEuler.z.toNat),
       (0x50, s.inPos.x.toNat), (0x54, s.inPos.y.toNat), (0x58, s.inPos.z.toNat),
       (0x60, s.inRot.m00.toNat), (0x64, s.inRot.m01.toNat), (0x68, s.inRot.m02.toNat), (0x6C, s.inRot.m10.toNat),
       (0x70, s.inRot.m11.toNat), (0x74, s.inRot.m12.toNat), (0x78, s.inRot.m20.toNat), (0x7C, s.inRot.m21.toNat),
       (0x80, s.inRot.m22.toNat), (0x90, s.outPos.x.toNat), (0x94, s.outPos.y.toNat), (0x98, s.outPos.z.toNat),
       (0xA0, s.outRot.m00.toNat), (0xA4, s.outRot.m01.toNat), (0xA8, s.outRot.m02.toNat), (0xAC, s.outRot.m10.toNat),
       (0xB0, s.outRot.m11.toNat), (0xB4, s.outRot.m12.toNat), (0xB8, s.outRot.m20.toNat), (0xBC, s.outRot.m21.toNat),
       (0xC0, s.outRot.m22.toNat)] := by
  have hwide : ∀ {n : Nat} (x : BitVec n), n ≤ 32 → (x.zeroExtend 32).toNat = x.toNat :=
    fun _ hn => BitVec.toNat_setWidth_of_le hn
  have hlen := hwide s.len (by decide)
  have htag := hwide s.tag (by decide)
  have hkind := hwide s.clsKind (by decide)
  have haxis := hwide s.clsAxis (by decide)
  have hcodes := hwide s.codes (by decide)
  have hpacked := hwide s.packed (by decide)
  simp only [readings, idleRegs, List.map_cons, List.map_nil, readReg, hlen, htag, hkind, haxis, hcodes, hpacked]
  rfl

/-- A 32-bit read at the offset of a listed register, of an idle block or of a register R260 allows. -/
theorem hostRead_of_mem_readings {p : Params} {s : State} {l : List Reg} {off v : Nat} (hr : s.resetAsserted = false)
    (hmem : (off, v) ∈ readings p s l) (hl : s.inflight = none ∨ ∀ r ∈ l, busyAllowed r = true) :
    hostRead p s 4 (BitVec.ofNat 17 off).toNat = .next { s with busData := some (BitVec.ofNat 32 v) } := by
  obtain ⟨r, hrl, heq⟩ := List.mem_map.1 hmem
  injection heq with hoff hv
  subst hoff hv
  rw [BitVec.ofNat_toNat, BitVec.setWidth_eq]
  exact hostRead_reg p hr (hl.imp_right (· r hrl))

/-- Settles O51: the offsets and values of the map are the registers' own. -/
theorem registerReadReturnsValue : Obligations.RegisterReadReturnsValue := by
  intro s off v rest at3 at9 always idle hreset hhost
  have halways : always = readings Config.hw s [.id, .bufsz, .ctrl, .status, .cmd] :=
    (readings_busyAllowed Config.hw s).symm
  have hidle : idle = readings Config.hw s idleRegs := (readings_idleRegs Config.hw s).symm
  refine ⟨fun hi hmem => ?_, fun n i hi hw hmem => ?_⟩
  · rw [halways, hidle, ← readings_append, ← readings_with_host _ s rest s.wait] at hmem
    rw [step_idle hi hhost]
    exact hostRead_of_mem_readings hreset hmem (.inl hi)
  · rw [halways, ← readings_with_host _ s rest n] at hmem
    rw [step_wait hreset hi hw hhost]
    exact hostRead_of_mem_readings hreset hmem (.inr fun r => (busyAllowed_iff r).2)

/-! ## Reserved and unbacked offsets -/

section
variable {p : Params} {s : State} {n off : Nat}

/-- An idle block outside reset refuses only what the bus does not accept (R64). -/
theorem accessRefusal_idle (hr : s.resetAsserted = false) (hi : s.inflight = none) (ha : busAccepts n off = true) :
    accessRefusal p s n off = none := by
  simp [accessRefusal, hr, ha, State.busy, hi]

/-- R40: an offset of the register window where no register stands is reserved. -/
theorem placeOf_reserved (ho : off < 0x10000) (h : ∀ r : Reg, r.offset ≠ off) : placeOf p off = .reserved := by
  unfold placeOf
  rw [if_pos ho]
  cases hr : regAt off with
  | none => rfl
  | some r => exact absurd (offset_of_regAt hr) (h r)

/-- R61: an offset past the buffer is unbacked. -/
theorem placeOf_unbacked (ho : 0x10000 + p.bufBytes ≤ off) : placeOf p off = .unbacked := by
  unfold placeOf
  rw [if_neg (by omega), if_neg (by omega)]

/-- R20, R40: a write in the register window where only read-only registers can stand changes nothing. -/
theorem writePlace_readOnly_or_reserved (ho : off < 0x10000) (h : ∀ r : Reg, r.offset = off → r.access = .ro)
    (v : Word) : writePlace p s n v (placeOf p off) = s := by
  unfold placeOf
  rw [if_pos ho]
  cases hr : regAt off with
  | none => rfl
  | some r => exact writeReg_of_ro p s v (h r (offset_of_regAt hr))

/-- R62: outside the register window the bus accepts every aligned access of the three widths. -/
theorem busAccepts_aligned (ho : 0x10000 ≤ off) (hn : n = 1 ∨ n = 2 ∨ n = 4) (ha : off % n = 0) :
    busAccepts n off = true := by
  rcases hn with rfl | rfl | rfl <;> simp [busAccepts, ho, ha]

/-- R63: the bus accepts 32 bits at every multiple of 4. -/
theorem busAccepts_word (ha : off % 4 = 0) : busAccepts 4 off = true := by
  simp [busAccepts, ha]

end

section
variable {s : State} {n : Nat} {off : BitVec 17} {rest : List HostEvent}

/-- The turn of an idle block's host that writes at a place of the host space (R70). -/
theorem hostStep_write (p : Params) {v : Word} (hr : s.resetAsserted = false) (hi : s.inflight = none)
    (ha : busAccepts n off.toNat = true) (hh : s.host = .write n off v :: rest) :
    hostStep p s = .next (writePlace p { s with host := rest } n v (placeOf p off.toNat)) := by
  have hnone : accessRefusal p { s with host := rest } n off.toNat = none := accessRefusal_idle hr hi ha
  rw [hostStep, hh]
  simp only [hostAction, hostWrite, hnone]

/-- The turn of an idle block's host that reads at a place of the host space (R67, R70). -/
theorem hostStep_read (p : Params) (hr : s.resetAsserted = false) (hi : s.inflight = none)
    (ha : busAccepts n off.toNat = true) (hh : s.host = .read n off :: rest) :
    hostStep p s =
      .next { s with host := rest, busData := some (readPlace p { s with host := rest } n (placeOf p off.toNat)) } := by
  have hnone : accessRefusal p { s with host := rest } n off.toNat = none := accessRefusal_idle hr hi ha
  rw [hostStep, hh]
  simp only [hostAction, hostRead, hnone]

end

/-- Settles O52: by the place of the offset. -/
theorem reservedOffsetsInert : Obligations.ReservedOffsetsInert := by
  intro s n off v rest hreset hidle
  refine ⟨step_of_idle hidle, fun p => ⟨fun hwindow haligned => ⟨fun hro hhost => ?_, fun hnone hhost => ?_⟩,
    fun hpast hwidth haligned => ?_⟩⟩
  · rw [hostStep_write p hreset hidle (busAccepts_word haligned) hhost, writePlace_readOnly_or_reserved hwindow hro]
  · rw [hostStep_read p hreset hidle (busAccepts_word haligned) hhost, placeOf_reserved hwindow hnone]
    rfl
  · have hacc : busAccepts n off.toNat = true := busAccepts_aligned (by omega) hwidth haligned
    refine ⟨fun hhost => ?_, fun hhost => ?_⟩
    · rw [hostStep_write p hreset hidle hacc hhost, placeOf_unbacked hpast]
      rfl
    · rw [hostStep_read p hreset hidle hacc hhost, placeOf_unbacked hpast]
      rfl

end Sys2Proof.Machine
end

section
/-! PROOF. The memory family: which accesses the bus accepts (R62 to R64), what the wire buffer holds after a host write
(R61, R62, R74), and who can change one of its bytes (R67, R165, R251). -/

namespace Sys2Proof.Machine

/-! ## What an idle block's bus accepts -/

/-- R62 to R64: the accesses the bus accepts are the aligned ones of its three widths, the narrow ones outside the
register window. -/
theorem busAccepts_iff {n off : Nat} :
    busAccepts n off = true ↔ (n = 1 ∨ n = 2 ∨ n = 4) ∧ off % n = 0 ∧ (0x10000 ≤ off ∨ n = 4) := by
  constructor
  · intro h
    rcases busAccepts_width h with rfl | rfl | rfl <;> simp [busAccepts] at h <;> omega
  · rintro ⟨hn, ha, ho | rfl⟩
    · exact busAccepts_aligned ho hn ha
    · exact busAccepts_word ha

/-- Outside reset an access the bus does not accept is a bus error, whatever is in flight (R64; log 16). -/
theorem accessRefusal_busError {p : Params} {s : State} {n off : Nat} (hr : s.resetAsserted = false)
    (ha : busAccepts n off = false) : accessRefusal p s n off = some .busError := by
  simp [accessRefusal, hr, ha]

section
variable {s : State} {n : Nat} {off : BitVec 17} {v : Word} {rest : List HostEvent}

/-- R64: an idle block's step refuses an access that the bus does not accept. -/
theorem step_idle_refused (hr : s.resetAsserted = false) (hi : s.inflight = none)
    (hh : s.host = .read n off :: rest ∨ s.host = .write n off v :: rest) (ha : busAccepts n off.toNat = false) :
    step s = .refused .busError := by
  have herr : accessRefusal Config.hw { s with host := rest } n off.toNat = some .busError :=
    accessRefusal_busError hr ha
  rcases hh with hh | hh <;> rw [step_idle hi hh]
  · simp only [hostAction, hostRead, herr]
  · simp only [hostAction, hostWrite, herr]

/-- R62, R63: an idle block's step performs an access that the bus accepts. -/
theorem step_idle_performed (hr : s.resetAsserted = false) (hi : s.inflight = none)
    (hh : s.host = .read n off :: rest ∨ s.host = .write n off v :: rest) (ha : busAccepts n off.toNat = true) :
    ∃ t, step s = .next t := by
  rw [step_of_idle hi]
  rcases hh with hh | hh
  · exact ⟨_, hostStep_read Config.hw hr hi ha hh⟩
  · exact ⟨_, hostStep_write Config.hw hr hi ha hh⟩

end

/-- Settles O53: an idle block refuses exactly what the bus does not accept. -/
theorem busErrorsExactlyUnacceptedAccesses : Obligations.BusErrorsExactlyUnacceptedAccesses := by
  intro s n off v rest hreset hidle hhost
  refine ⟨fun hbad => step_idle_refused hreset hidle hhost ?_, fun hwidth haligned hplace =>
    step_idle_performed hreset hidle hhost (busAccepts_iff.2 ⟨hwidth, haligned, hplace⟩)⟩
  rw [Bool.eq_false_iff, Ne, busAccepts_iff]
  omega

/-! ## Bytes of words -/

/-- R65: byte k of a word, counted from bits 7:0. -/
theorem leBytes_getElem? (v : Word) {k : Nat} (hk : k < 4) : (leBytes v)[k]? = some (v.extractLsb' (8 * k) 8) := by
  match k, hk with
  | 0, _ | 1, _ | 2, _ | 3, _ => rfl

/-- R65: byte k of a word as a number. -/
theorem extractByte_toNat (v : Word) (k : Nat) : (v.extractLsb' (8 * k) 8).toNat = v.toNat / 2 ^ (8 * k) % 256 := by
  rw [BitVec.extractLsb'_toNat, Nat.shiftRight_eq_div_pow]

/-- R65: four bytes of a function, put together little-endian, come apart again. -/
theorem leWord_byte (f : Nat → Byte) {k : Nat} (hk : k < 4) :
    (leWord (f 0) (f 1) (f 2) (f 3)).toNat / 2 ^ (8 * k) % 256 = (f k).toNat := by
  rw [leWord_toNat]
  have h0 := (f 0).isLt
  have h1 := (f 1).isLt
  have h2 := (f 2).isLt
  have h3 := (f 3).isLt
  match k, hk with
  | 0, _ | 1, _ | 2, _ | 3, _ => omega

/-! ## The buffer window -/

/-- Byte k of an access of n bytes from index i as the host reads it: the buffer's byte where the access covers it and
the buffer backs it, else 0 (R61, R62; log 8). -/
def accessByte (p : Params) (s : State) (n i k : Nat) : Byte :=
  if k < n ∧ i + k < p.bufBytes then readByte p s (i + k) else 0#8

section
variable (p : Params) (s : State) {n i k : Nat} (v : Word)

/-- R62: a window read puts its access's bytes together. -/
theorem readWindow_eq (hn : 0 < n) :
    readWindow p s n i =
      leWord (accessByte p s n i 0) (accessByte p s n i 1) (accessByte p s n i 2) (accessByte p s n i 3) := by
  simp only [readWindow, windowByte, accessByte, hn, true_and, ite_and, Nat.add_zero, Nat.succ_le_iff]

/-- R62: byte k of what a window read returns is byte k of its access. -/
theorem readWindow_byte (hn : 0 < n) (hk : k < 4) :
    (readWindow p s n i).toNat / 2 ^ (8 * k) % 256 = (accessByte p s n i k).toNat := by
  rw [readWindow_eq p s hn, leWord_byte (accessByte p s n i) hk]

/-- R62: a byte that a host write covers and the buffer backs holds that byte of the data. -/
theorem readByte_writeWindow_inside (hn : n ≤ 4) (hk : k < n) (hi : i + k < p.bufBytes) :
    readByte p (writeWindow p s i ((leBytes v).take n)) (i + k) = v.extractLsb' (8 * k) 8 := by
  rw [writeWindow, readByte_writeBytes, if_pos (by omega), Nat.add_sub_cancel_left,
    List.getElem?_take_of_lt (by omega), List.getElem?_take_of_lt hk, leBytes_getElem? v (by omega), Option.getD_some]

/-- R62, R74: a host write in the buffer window leaves every byte that it does not cover or the buffer does not back. -/
theorem writeWindow_keptOutside (n i : Nat) (l : List Byte) :
    BufKeptOutside p s (writeWindow p s i (l.take n)) i (min (i + n) p.bufBytes) := by
  intro a ha
  rw [writeWindow, readByte_writeBytes]
  split
  next hle =>
    rw [List.getElem?_eq_none, Option.getD_none]
    simp only [List.length_take]
    omega
  next => rfl

end

section
variable {p : Params} {s : State} {n i : Nat} {v : Word} {rest : List HostEvent}

/-- R61, R62: the bus accepts an aligned access of its three widths that starts in the buffer. -/
theorem busAccepts_bufOff (hi : i < p.bufBytes) (hn : n = 1 ∨ n = 2 ∨ n = 4) (ha : i % n = 0) :
    busAccepts n (bufOff i).toNat = true := by
  rw [bufOff_toNat hi]
  refine busAccepts_aligned (by omega) hn ?_
  rcases hn with rfl | rfl | rfl <;> omega

/-- The turn of an idle block's host that writes in the buffer (R62, R70). -/
theorem hostStep_write_buffer (hr : s.resetAsserted = false) (hf : s.inflight = none) (hi : i < p.bufBytes)
    (hn : n = 1 ∨ n = 2 ∨ n = 4) (ha : i % n = 0) (hh : s.host = .write n (bufOff i) v :: rest) :
    hostStep p s = .next (writeWindow p { s with host := rest } i ((leBytes v).take n)) := by
  rw [hostStep_write p hr hf (busAccepts_bufOff hi hn ha) hh, bufOff_toNat hi, placeOf_buffer hi, writePlace]

/-- The turn of an idle block's host that reads in the buffer (R62, R67, R70). -/
theorem hostStep_read_buffer (hr : s.resetAsserted = false) (hf : s.inflight = none) (hi : i < p.bufBytes)
    (hn : n = 1 ∨ n = 2 ∨ n = 4) (ha : i % n = 0) (hh : s.host = .read n (bufOff i) :: rest) :
    hostStep p s = .next { s with host := rest, busData := some (readWindow p { s with host := rest } n i) } := by
  rw [hostStep_read p hr hf (busAccepts_bufOff hi hn ha) hh, bufOff_toNat hi, placeOf_buffer hi, readPlace]

end

/-- Settles O49: two turns, the write of the access's backed bytes and the read of the same access. -/
theorem bufferWriteReadsBack : Obligations.BufferWriteReadsBack := by
  refine ⟨fun s hidle => step_of_idle hidle, fun p s n i v hreset hidle hwidth haligned hi hhost => ?_⟩
  have hn : n ≤ 4 := by omega
  have hwrite := hostStep_write_buffer hreset hidle hi hwidth haligned hhost
  generalize ht : writeWindow p { s with host := [.read n (bufOff i)] } i ((leBytes v).take n) = t at hwrite
  have hframe : t = { s with buf := t.buf, host := [.read n (bufOff i)] } := by rw [← ht]; rfl
  have hread := hostStep_read_buffer (s := t) (rest := []) (by rw [hframe]; exact hreset) (by rw [hframe]; exact hidle)
    hi hwidth haligned (by rw [hframe])
  have hinside : ∀ k, k < n → i + k < p.bufBytes → (readByte p t (i + k)).toNat = v.toNat / 2 ^ (8 * k) % 256 := by
    intro k hk hb
    rw [← ht, readByte_writeWindow_inside p _ v hn hk hb, extractByte_toNat]
  refine ⟨t, _, hwrite, hread, hframe, hinside, ?_, fun k hk => ?_⟩
  · rw [← ht]
    exact writeWindow_keptOutside p { s with host := [.read n (bufOff i)] } n i (leBytes v)
  · rw [readWindow_byte p _ (by omega) hk, accessByte]
    split
    next h => exact hinside k h.1 h.2
    next => rfl

/-! ## Who can change a buffer byte -/

/-- R63: a register write leaves every byte of the buffer. -/
theorem writeReg_bufKept (p : Params) (s : State) (r : Reg) (v : Word) : BufKept p s (writeReg p s r v) := by
  cases r with
  | cmd =>
    rw [writeReg_cmd]
    rcases writeCmd_cases p s v with ⟨_, h⟩ | ⟨_, _, _, h⟩ | ⟨_, _, _, h⟩ <;> rw [h] <;> exact fun _ => rfl
  | _ => exact fun _ => rfl

/-- Of the host's actions only the release of reset and a write in the buffer window change a byte of the buffer, the
write only backed bytes that it covers (R62, R67, R251; log 4, log 6). -/
theorem hostAction_buffer {p : Params} {s t : State} {e : HostEvent} (h : hostAction p s e = .next t) :
    BufKept p s t ∨ e = .resetRelease ∨
      ∃ n off v i, e = .write n off v ∧ off.toNat = 0x10000 + i ∧ BufKeptOutside p s t i (min (i + n) p.bufBytes) := by
  rcases hostAction_next_cases h with ⟨_, _, rfl⟩ | ⟨_, rfl⟩ | ⟨he, _⟩ | ⟨v, r, _, _, _, rfl⟩ |
    ⟨n, off, v, i, he, _, _, _, hoff, _, rfl⟩
  · exact .inl fun _ => rfl
  · exact .inl fun _ => rfl
  · exact .inr (.inl he)
  · exact .inl (writeReg_bufKept p s r v)
  · exact .inr (.inr ⟨n, off, v, i, he, hoff, writeWindow_keptOutside p s n i (leBytes v)⟩)

/-- R201, R83: no command but ENCODE changes a byte of the buffer. -/
theorem complete_bufKept_of_ne_encode (s : State) {i : Instr} (hi : i ≠ .encode) :
    BufKept Config.hw s (complete s (commandRule i s)) := by
  cases i with
  | encode => exact absurd rfl hi
  | decode =>
    rw [commandRule, decodeRule_eq]
    split
    · exact readByte_complete_decodeFrame _ _ _ _
    · exact readByte_complete_raised _ _
  | nop | classify | pack | unpack => exact fun _ => rfl

/-- R165: ENCODE with a frame that fits changes no byte outside its frame. -/
theorem complete_encode_keptOutside {p : Params} {s : State}
    (hfits : s.wrPtr.toNat + frameLen (classify p s.inRot).kind ≤ p.bufBytes) :
    BufKeptOutside p s (complete s (encodeRule p s)) s.wrPtr.toNat
      (s.wrPtr.toNat + frameLen (classify p s.inRot).kind) := by
  intro a ha
  rw [encodeRule_eq, if_pos hfits, readByte_complete_encodeFrame]
  split
  next hle =>
    rw [List.getElem?_eq_none, Option.getD_none]
    rw [frameBytes_length]
    omega
  next => rfl

/-- R164, R222: ENCODE with a frame that does not fit changes no byte. -/
theorem complete_encode_bufKept {p : Params} {s : State}
    (hover : ¬ s.wrPtr.toNat + frameLen (classify p s.inRot).kind ≤ p.bufBytes) :
    BufKept p s (complete s (encodeRule p s)) := by
  rw [encodeRule_eq, if_neg hover]
  exact readByte_complete_raised p s

/-- A byte that differs is not one of the bytes kept. -/
theorem BufKeptOutside.inside {p : Params} {s t : State} {lo hi a : Nat} (h : BufKeptOutside p s t lo hi)
    (hne : readByte p t a ≠ readByte p s a) : lo ≤ a ∧ a < hi := by
  have hout : ¬ (a < lo ∨ hi ≤ a) := fun ho => hne (h a ho)
  omega

/-- Settles O13: of the completions ENCODE's, of the host's actions the write and the release of reset. -/
theorem onlyEncodeAndHostWriteBuffer : Obligations.OnlyEncodeAndHostWriteBuffer := by
  intro s t a hstep hne
  rcases step_next_cases hstep with ⟨i, _, hi, hw, rfl⟩ | ⟨_, _, rfl⟩ | ⟨e, rest, w, hh, ha, _⟩
  · left
    by_cases he : i = .encode
    · subst he
      by_cases hfits : s.wrPtr.toNat + frameLen (classify Config.hw s.inRot).kind ≤ Config.hw.bufBytes
      · obtain ⟨hlo, hhi⟩ := (complete_encode_keptOutside hfits).inside hne
        exact ⟨hi, hw, hlo, hhi, hfits⟩
      · exact absurd (complete_encode_bufKept hfits a) hne
    · exact absurd (complete_bufKept_of_ne_encode s he a) hne
  · exact absurd rfl hne
  · rcases hostAction_buffer ha with hkept | rfl | ⟨n, off, v, i, rfl, hoff, hkept⟩
    · exact absurd (hkept a) hne
    · exact .inr (.inr ⟨rest, hh⟩)
    · obtain ⟨hlo, hhi⟩ := hkept.inside hne
      exact .inr (.inl ⟨n, off, v, rest, hh, by omega, by omega, by omega⟩)

end Sys2Proof.Machine
end

section
/-! PROOF. The encoding family: which words select a command (R80 to R82), what a command can write at all (R83), and
`RUN X` from the CMD write to its last poll (R86, R270). -/

namespace Sys2Proof

/-! ## The decoder -/

/-- R81: the opcode map finds a command at its opcode and nowhere else. -/
theorem opcodeMap_eq_some_iff {op : BitVec 8} {i : Instr} : opcodeMap op = some i ↔ op = opcode i := by
  constructor
  · intro h
    unfold opcodeMap at h
    split at h <;> cases h <;> exact BitVec.eq_of_toNat_eq ‹_›
  · rintro rfl
    cases i <;> rfl

/-- R81: the reserved opcodes are those from 6 on. -/
theorem opcodeMap_eq_none {op : BitVec 8} (h : opcodeMap op = none) : 6 ≤ op.toNat := by
  unfold opcodeMap at h
  split at h
  case h_7 =>
    simp only [imp_false] at *
    omega
  all_goals cases h

/-- R80, R81: a command's word, as a number, is its opcode. -/
theorem encode_toNat (i : Instr) : (encode i).toNat = (opcode i).toNat := by
  rw [encode, append_toNat, BitVec.toNat_ofNat, Nat.zero_mod, Nat.zero_mul, Nat.zero_add]

theorem encode_toNat_lt (i : Instr) : (encode i).toNat < 6 := by
  rw [encode_toNat]
  cases i <;> decide

/-- R80 to R82: everything the decoder can answer, by the number a word is. -/
theorem decode_cases (w : Word) :
    (256 ≤ w.toNat ∧ decode w = .error .reservedBits) ∨
    (6 ≤ w.toNat ∧ w.toNat < 256 ∧ decode w = .error .reservedOpcode) ∨
    ∃ i, w = encode i ∧ decode w = .ok i := by
  unfold decode
  by_cases hw : w.toNat < 256
  · have hop := splitWord_op_toNat hw
    simp only [(splitWord_rsvZero w).2 hw, if_true]
    cases ho : opcodeMap (splitWord w).op with
    | none => exact .inr (.inl ⟨hop ▸ opcodeMap_eq_none ho, hw, rfl⟩)
    | some i =>
      refine .inr (.inr ⟨i, BitVec.eq_of_toNat_eq ?_, rfl⟩)
      rw [encode_toNat, ← hop, opcodeMap_eq_some_iff.1 ho]
  · exact .inl ⟨by omega, if_neg (mt (splitWord_rsvZero w).1 hw)⟩

/-- R81: decode and encode agree. -/
theorem decode_eq_ok_iff {w : Word} {i : Instr} : decode w = .ok i ↔ w = encode i := by
  constructor
  · intro h
    rcases decode_cases w with ⟨_, hd⟩ | ⟨_, _, hd⟩ | ⟨j, rfl, hd⟩ <;> rw [hd] at h <;> cases h
    rfl
  · rintro rfl
    cases i <;> rfl

/-- Settles O1: decode and encode agree, and the six words are R81's. -/
theorem decodeAcceptsExactlySixWords : Obligations.DecodeAcceptsExactlySixWords :=
  ⟨fun _ _ => decode_eq_ok_iff, rfl, rfl, rfl, rfl, rfl, rfl⟩

/-- Settles O2: the three ranges of `decode_cases` exclude each other, since every command's word is below 6. -/
theorem reservedWordsRejectedByName : Obligations.ReservedWordsRejectedByName := by
  intro w
  rcases decode_cases w with ⟨hw, hd⟩ | ⟨h6, hw, hd⟩ | ⟨i, rfl, hd⟩ <;> rw [hd]
  · exact ⟨iff_of_true rfl hw, iff_of_false nofun (by omega)⟩
  · exact ⟨iff_of_false nofun (by omega), iff_of_true rfl ⟨h6, hw⟩⟩
  · have := encode_toNat_lt i
    exact ⟨iff_of_false nofun (by omega), iff_of_false nofun (by omega)⟩

/-- Settles O3: six of the words by O1, the two rejected ones by O2. -/
theorem writtenWordsDecode : Obligations.WrittenWordsDecode := by
  obtain ⟨hdec, hnop, hencode, hdecode, hclassify, hpack, hunpack⟩ := decodeAcceptsExactlySixWords
  exact ⟨(hdec _ _).2 hnop.symm, (hdec _ _).2 hencode.symm, (hdec _ _).2 hdecode.symm, (hdec _ _).2 hclassify.symm,
    (hdec _ _).2 hpack.symm, (hdec _ _).2 hunpack.symm, (reservedWordsRejectedByName _).1.2 (by decide),
    (reservedWordsRejectedByName _).2.2 (by decide)⟩

end Sys2Proof

namespace Sys2Proof.Machine

/-! ## The columns of R83 -/

/-- The columns of R83's table: the state s with the fields that command i may write taken from v, DONE set and nothing
in flight (R212). -/
def column (i : Instr) (s v : State) : State :=
  { s with
    done := true
    inflight := none
    bounds := if i = .encode ∨ i = .decode then v.bounds else s.bounds
    malformed := if i = .decode then v.malformed else s.malformed
    wrPtr := if i = .encode then v.wrPtr else s.wrPtr
    len := if i = .encode ∨ i = .decode then v.len else s.len
    tag := if i = .encode ∨ i = .decode then v.tag else s.tag
    clsKind := if i = .encode ∨ i = .classify then v.clsKind else s.clsKind
    clsAxis := if i = .encode ∨ i = .classify then v.clsAxis else s.clsAxis
    clsAngle := if i = .encode ∨ i = .classify then v.clsAngle else s.clsAngle
    clsEuler := if i = .encode ∨ i = .classify then v.clsEuler else s.clsEuler
    codes := if i = .encode ∨ i = .classify ∨ i = .unpack then v.codes else s.codes
    packed := if i = .pack then v.packed else s.packed
    outPos := if i = .decode then v.outPos else s.outPos
    outRot := if i = .decode then v.outRot else s.outRot
    buf := if i = .encode then v.buf else s.buf }

/-- R83: a completion writes in its command's column only. -/
theorem complete_eq_column (i : Instr) (s : State) :
    complete s (commandRule i s) = column i s (complete s (commandRule i s)) := by
  cases i with
  | encode =>
    rw [commandRule, encodeRule_eq]
    split <;> rfl
  | decode =>
    rw [commandRule, decodeRule_eq]
    split <;> rfl
  | nop | classify | pack | unpack => rfl

/-- R83: no column holds CTRL, CURSOR, the input transform or ILLEGAL. -/
theorem commandKeeps_column (i : Instr) (s v : State) : CommandKeeps s (column i s v) := by
  constructor <;> rfl

/-- R83: no completion writes CTRL, CURSOR, the input transform or ILLEGAL. -/
theorem commandKeeps_complete (i : Instr) (s : State) : CommandKeeps s (complete s (commandRule i s)) :=
  complete_eq_column i s ▸ commandKeeps_column i s _

/-- R212: after a completion nothing is in flight. -/
theorem complete_commandRule_inflight (i : Instr) (s : State) : (complete s (commandRule i s)).inflight = none := by
  rw [complete_eq_column]
  rfl

/-- R165: ENCODE changes no byte outside the frame it would write at WR_PTR, whether that frame fits or not. -/
theorem encode_keptOutside (s : State) :
    BufKeptOutside Config.hw s (complete s (commandRule .encode s)) s.wrPtr.toNat
      (s.wrPtr.toNat + frameLen (classify Config.hw s.inRot).kind) := by
  by_cases hfits : s.wrPtr.toNat + frameLen (classify Config.hw s.inRot).kind ≤ Config.hw.bufBytes
  · exact complete_encode_keptOutside hfits
  · exact fun a _ => complete_encode_bufKept hfits a

/-- Settles O9: the buffer by its own lemmas, every other field by the column it stands in. -/
theorem commandsWriteOnlyTheirColumn : Obligations.CommandsWriteOnlyTheirColumn := by
  intro i s t h
  rw [exec_eq] at h
  injection h with h
  have hkept : i ≠ .encode → BufKept Config.hw s t := fun hi => h ▸ complete_bufKept_of_ne_encode s hi
  have hframe : i = .encode → BufKeptOutside Config.hw s t s.wrPtr.toNat
      (s.wrPtr.toNat + frameLen (classify Config.hw s.inRot).kind) := by
    rintro rfl
    exact h ▸ encode_keptOutside s
  have hcol : t = column i s t := h ▸ complete_eq_column i s
  refine ⟨hcol ▸ commandKeeps_column i s t, fun he => ⟨hkept he, ?_⟩, hframe, fun hd => ?_, fun he hc => ?_,
    fun he hd => ?_, fun he hc hu => ?_, fun hp => ?_⟩ <;> rw [hcol]
  · exact if_neg he
  · exact ⟨⟨if_neg hd, if_neg hd⟩, if_neg hd⟩
  · have hn : ¬(i = .encode ∨ i = .classify) := not_or.2 ⟨he, hc⟩
    exact ⟨if_neg hn, if_neg hn, if_neg hn, if_neg hn⟩
  · have hn : ¬(i = .encode ∨ i = .decode) := not_or.2 ⟨he, hd⟩
    exact ⟨⟨if_neg he, if_neg hn, if_neg hn⟩, if_neg hn⟩
  · exact if_neg (not_or.2 ⟨he, not_or.2 ⟨hc, hu⟩⟩)
  · exact if_neg hp

/-! ## `RUN X` -/

/-- R83, R212: a completion neither reads nor writes the pending actions and the last data read (log 1, log 8). -/
theorem complete_with_host (i : Instr) (s : State) (host : List HostEvent) (busData : Option Word) :
    complete { s with host, busData } (commandRule i { s with host, busData }) =
      { complete s (commandRule i s) with host, busData } := by
  cases i with
  | encode =>
    simp only [commandRule, encodeRule_eq]
    split <;> rfl
  | decode =>
    have hread : ∀ a, readByte Config.hw { s with host, busData } a = readByte Config.hw s a := fun _ => rfl
    simp only [commandRule, decodeRule_eq, hread]
    split <;> rfl
  | nop | classify | pack | unpack => rfl

section
variable {s : State} {i : Instr} {rest : List HostEvent}

/-- R210, R211: an idle block given a command's word accepts that command. -/
theorem step_cmdEvent (hr : s.resetAsserted = false) (hi : s.inflight = none) (hh : s.host = cmdEvent i :: rest) :
    step s = .next (acceptCommand Config.hw { s with host := rest } i) := by
  have haccept : writeCmd Config.hw { s with host := rest } (encode i) =
      acceptCommand Config.hw { s with host := rest } i := by
    simp [writeCmd, hi, decode_eq_ok_iff.2 rfl]
  rw [step_idle hi hh, ← haccept, ← writeReg_cmd]
  exact hostWrite_reg (r := .cmd) Config.hw (encode i) hr (.inl hi)

/-- R24, R260: STATUS reads outside reset, whatever is in flight. -/
theorem hostRead_status (p : Params) (hr : s.resetAsserted = false) :
    hostRead p s 4 (Reg.offset .status) = .next { s with busData := some (statusWord s) } :=
  regOff_toNat .status ▸ hostRead_reg (r := .status) p hr (.inr rfl)

/-- R86: a poll that reads BUSY = 1 stays pending and uses up one step of the latency (log 2, log 12). -/
theorem step_poll_busy {n : Nat} (hr : s.resetAsserted = false) (hi : s.inflight = some i) (hw : s.wait = n + 1)
    (hh : s.host = .poll :: rest) : step s = .next { s with wait := n, busData := some (statusWord s) } := by
  have hbusy : State.busy { s with host := rest, wait := n } = true := by rw [State.busy, hi]; rfl
  rw [step_wait hr hi hw hh, hostAction, if_pos hbusy, ← hh]
  exact hostRead_status Config.hw hr

/-- R86: a poll of an idle block is the last one. -/
theorem step_poll_idle (hr : s.resetAsserted = false) (hi : s.inflight = none) (hh : s.host = .poll :: rest) :
    step s = .next { s with host := rest, busData := some (statusWord s) } := by
  have hbusy : ¬State.busy { s with host := rest } = true := by rw [State.busy, hi]; exact Bool.false_ne_true
  rw [step_idle hi hh, hostAction, if_neg hbusy]
  exact hostRead_status Config.hw hr

/-- R212, R270: a polling host waits out the latency: after as many steps as are left to wait, only the wait count and
the last data read have changed. -/
theorem run_polls (hr : s.resetAsserted = false) (hi : s.inflight = some i) (hh : s.host = .poll :: rest) (k : Nat) :
    ∃ d, core.run (k + s.wait) s = core.run k { s with wait := 0, busData := d } := by
  generalize hw : s.wait = n
  induction n generalizing s with
  | zero =>
    have hs : s = { s with wait := 0, busData := s.busData } := by rw [← hw]
    exact ⟨_, congrArg (core.run k) hs⟩
  | succ n ih =>
    obtain ⟨d, hd⟩ := ih (s := { s with wait := n, busData := some (statusWord s) }) hr hi hh rfl
    exact ⟨d, (run_succ (k + n) (step_poll_busy hr hi hw hh)).trans hd⟩

/-- R86, R212: the step that completes the command in flight, of a host about to poll, and the last poll. -/
theorem run_complete_poll (hr : s.resetAsserted = false) (hi : s.inflight = some i) (hw : s.wait = 0)
    (d : Option Word) :
    core.run 2 { s with host := .poll :: s.host, busData := d } =
      .next { complete s (commandRule i s) with busData := some (statusWord (complete s (commandRule i s))) } := by
  have hkeeps := commandKeeps_complete i s
  have hengine : step { s with host := .poll :: s.host, busData := d } =
      .next { complete s (commandRule i s) with host := .poll :: s.host, busData := d } := by
    rw [step_engine (i := i) (by simp [turn, hr, hi, hw]), exec_eq, complete_with_host]
  have hpoll := step_poll_idle (s := { complete s (commandRule i s) with host := .poll :: s.host, busData := d })
    (hkeeps.resetAsserted.trans hr) (complete_commandRule_inflight i s) rfl
  refine ((run_succ 1 hengine).trans (run_succ 0 hpoll)).trans (congrArg Host.Outcome.next ?_)
  rw [← hkeeps.host]
  rfl

end

/-- Settles O60: acceptance, the polls of `run_polls`, and the two steps of `run_complete_poll`. -/
theorem runPseudoInstructionEnds : Obligations.RunPseudoInstructionEnds := by
  intro s i rest hr hi hh
  refine ⟨_, exec_eq i _, ?_, ?_⟩
  · obtain ⟨d, hpolls⟩ := run_polls (s := acceptCommand Config.hw { s with host := .poll :: rest } i) hr rfl rfl 2
    calc core.run (Config.hw.lat s.accepted + 3) s
        = core.run (2 + Config.hw.lat s.accepted) (acceptCommand Config.hw { s with host := .poll :: rest } i) := by
          rw [Nat.add_comm 2]
          exact run_succ _ (step_cmdEvent hr hi hh)
      _ = _ := hpolls
      _ = _ := run_complete_poll
          (s := { s with host := rest, inflight := some i, wait := 0, accepted := s.accepted + 1 }) hr rfl rfl d
  · rw [statusWord_eq, statusBits_busy, State.busy, complete_commandRule_inflight]
    rfl

end Sys2Proof.Machine
end

section
/-! PROOF. The classifier family (40_classifier.md): the threshold tests as ranges of bits 30:0 (R113, R115), the branch
test of the Euler decomposition (R111), and the guard chain of `classify` with CLASSIFY on top of it (R119, R125). -/

namespace Sys2Proof.Machine

/-! ## small and big -/

theorem isFinite_of_isNaN {x : Word} (h : isNaN x = true) : isFinite x = false := by
  rw [isNaN_iff] at h
  rw [← Bool.not_eq_true, isFinite_iff]
  omega

theorem isFinite_of_isInf {x : Word} (h : isInf x = true) : isFinite x = false := by
  rw [isInf_iff] at h
  rw [← Bool.not_eq_true, isFinite_iff]
  omega

theorem isNaN_of_isInf {x : Word} (h : isInf x = true) : isNaN x = false := by
  rw [isInf_iff] at h
  rw [isNaN_eq_false_iff, h]

theorem isInf_of_isFinite {x : Word} (h : isFinite x = true) : isInf x = false := by
  rw [← Bool.not_eq_true]
  intro hinf
  simp [isFinite_of_isInf hinf] at h

theorem small_iff_abs_val (x : Word) : small x = true ↔ isFinite x = true ∧ |val x| < val EPS := by
  rw [small, Bool.and_eq_true, decide_eq_true_eq, absval]

theorem big_iff_abs_val (x : Word) :
    big x = true ↔ isNaN x = false ∧ (isInf x = true ∨ val EPS ≤ |val x|) := by
  rw [big, Bool.and_eq_true, Bool.not_eq_true', Bool.or_eq_true, decide_eq_true_eq, absval]

theorem near_iff (x : Word) (v : Int) : near x v = true ↔ isFinite x = true ∧ |val x - v| < val EPS := by simp [near]

/-- EPS as a magnitude (R5). -/
theorem val_EPS : val EPS = magVal 0x3727C5AC := by
  have hm : magBits EPS = 0x3727C5AC := rfl
  rw [val_eq, hm, signFactor, if_neg (by decide), one_mul]

/-- R113: `small` is a range of bits 30:0; every pattern in it is finite. -/
theorem small_iff (x : Word) : small x = true ↔ magBits x < 0x3727C5AC := by
  rw [small_iff_abs_val, abs_val, val_EPS, magVal_strictMono.lt_iff_lt, isFinite_iff]
  omega

/-- R113: `big` is the range from EPS to the infinity, which closes it. -/
theorem big_iff (x : Word) : big x = true ↔ 0x3727C5AC ≤ magBits x ∧ magBits x ≤ 0x7F800000 := by
  rw [big_iff_abs_val, abs_val, val_EPS, magVal_strictMono.le_iff_le, isNaN_eq_false_iff, isInf_iff]
  omega

theorem big_eq_not_small {x : Word} (h : isNaN x = false) : big x = !small x := by
  rw [isNaN_eq_false_iff] at h
  rw [Bool.eq_iff_iff, Bool.not_eq_true', ← Bool.not_eq_true, small_iff, big_iff]
  omega

theorem small_of_big {x : Word} (h : big x = true) : small x = false := by
  rw [big_iff] at h
  rw [← Bool.not_eq_true, small_iff]
  omega

/-- Settles O25: bits 30:0 are the place of the magnitude. -/
theorem thresholdsOnPatterns : Obligations.ThresholdsOnPatterns := fun x => ⟨small_iff x, big_iff x⟩

/-- Settles O24: the tests look at the class of the pattern first and compare values of finite patterns only. -/
theorem thresholdTestsPartition : Obligations.ThresholdTestsPartition := by
  refine fun x => ⟨fun hfin => ⟨?_, ?_, fun v _ => ?_⟩, fun hnan => ?_, fun hinf => ?_, big_eq_not_small⟩
  · simp [small_iff_abs_val, hfin]
  · simp [big_iff_abs_val, isNaN_of_isFinite hfin, isInf_of_isFinite hfin]
  · simp [near_iff, hfin]
  · simp [small, big, near, hnan, isFinite_of_isNaN hnan]
  · simp [small, big, near, hinf, isNaN_of_isInf hinf, isFinite_of_isInf hinf]

/-! ## near -/

/-- Where t lies from place a up to the next one, the magnitudes above t are those of the places above a. -/
theorem lt_magVal_iff {t : Rat} {a : Nat} (hlow : magVal a ≤ t) (hhigh : t < magVal (a + 1)) (m : Nat) :
    t < magVal m ↔ a < m :=
  ⟨fun h => magVal_strictMono.lt_iff_lt.1 (hlow.trans_lt h),
    fun h => hhigh.trans_le (magVal_strictMono.monotone h)⟩

/-- Where t lies above place a up to the next one, the magnitudes below t are those of the places up to a. -/
theorem magVal_lt_iff {t : Rat} {a : Nat} (hlow : magVal a < t) (hhigh : t ≤ magVal (a + 1)) (m : Nat) :
    magVal m < t ↔ m ≤ a :=
  ⟨fun h => Nat.lt_succ_iff.1 (magVal_strictMono.lt_iff_lt.1 (h.trans_le hhigh)),
    fun h => (magVal_strictMono.monotone h).trans_lt hlow⟩

theorem near_zero (x : Word) : near x 0 = small x := by
  rw [Bool.eq_iff_iff, near_iff, small_iff_abs_val, Int.cast_zero, sub_zero]

/-- R115: EPS is between 167 and 168 steps of the patterns below 1.0 and between 83 and 84 of those above it. -/
theorem abs_magVal_sub_one_lt_iff (m : Nat) :
    |magVal m - 1| < val EPS ↔ 0x3F800000 - 167 ≤ m ∧ m ≤ 0x3F800000 + 83 := by
  have hbelow : 1 - val EPS < magVal m ↔ 0x3F800000 - 168 < m := by
    apply lt_magVal_iff <;> norm_num [val_EPS, magVal, gridUnits]
  have habove : magVal m < val EPS + 1 ↔ m ≤ 0x3F800000 + 83 := by
    apply magVal_lt_iff <;> norm_num [val_EPS, magVal, gridUnits]
  rw [abs_sub_lt_iff, sub_lt_iff_lt_add, sub_lt_comm, hbelow, habove]
  omega

theorem val_of_signBit_false {x : Word} (h : signBit x = false) : val x = magVal (magBits x) := by
  rw [val_eq, signFactor, h]
  simp

theorem val_of_signBit_true {x : Word} (h : signBit x = true) : val x = -magVal (magBits x) := by
  rw [val_eq, signFactor, h]
  simp

/-- R115: near 1.0; a negative pattern is more than 1 away from it. -/
theorem near_one_iff (x : Word) :
    near x 1 = true ↔ signBit x = false ∧ 0x3F800000 - 167 ≤ magBits x ∧ magBits x ≤ 0x3F800000 + 83 := by
  rw [near_iff, isFinite_iff, Int.cast_one]
  cases hs : signBit x with
  | false =>
    rw [val_of_signBit_false hs, abs_magVal_sub_one_lt_iff, eq_self, true_and]
    omega
  | true =>
    have hfar : ¬|val x - 1| < val EPS := by
      have hEPS : val EPS ≤ 1 := by norm_num [val_EPS, magVal, gridUnits]
      have := magVal_nonneg (magBits x)
      rw [val_of_signBit_true hs, abs_lt]
      intro h
      linarith
    simp [hfar]

/-- R115: near -1.0 is near 1.0 with the sign inverted. -/
theorem near_neg_one (x : Word) : near x (-1) = near (neg x) 1 := by
  have hdist : |-val x - 1| = |val x + 1| := by rw [← abs_neg, neg_sub, sub_neg_eq_add, add_comm]
  rw [Bool.eq_iff_iff, near_iff, near_iff, isFinite_iff, isFinite_iff, magBits_neg, val_neg]
  simp [hdist]

theorem near_neg_one_iff (x : Word) :
    near x (-1) = true ↔ signBit x = true ∧ 0x3F800000 - 167 ≤ magBits x ∧ magBits x ≤ 0x3F800000 + 83 := by
  rw [near_neg_one, near_one_iff, magBits_neg, signBit_neg, Bool.not_eq_false']

/-! ## The ternary code -/

/-- R115: the order of the three tests does not matter, since no entry is near two of 0, 1 and -1. -/
theorem codeOf_eq_some_iff (x : Word) (c : Code2) :
    codeOf x = some c ↔
      (near x 0 = true ∧ 0#2 = c) ∨ (near x 1 = true ∧ 1#2 = c) ∨ (near x (-1) = true ∧ 2#2 = c) := by
  have h01 : near x 0 = true → near x 1 = false := by
    rw [near_zero, small_iff, ← Bool.not_eq_true, near_one_iff]
    omega
  have h02 : near x 0 = true → near x (-1) = false := by
    rw [near_zero, small_iff, ← Bool.not_eq_true, near_neg_one_iff]
    omega
  have h12 : near x 1 = true → near x (-1) = false := by
    rw [near_one_iff, ← Bool.not_eq_true (near x (-1)), near_neg_one_iff]
    rintro ⟨hs, _⟩ ⟨hs', _⟩
    simp [hs] at hs'
  unfold codeOf
  split
  next h => simp [h, h01 h, h02 h]
  split
  next h0 h => simp [h0, h, h12 h]
  split
  next h0 h1 h => simp [h0, h1, h]
  next h0 h1 h2 => simp [h0, h1, h2]

/-- Settles O26: each code is one threshold test, and each test a range of patterns. -/
theorem codesOnPatterns : Obligations.CodesOnPatterns := by
  intro x
  have hx := x.isLt
  refine ⟨?_, ?_, ?_, ?_⟩
  · have hcode : codeOf x = some 0#2 ↔ near x 0 = true := by simp [codeOf_eq_some_iff]
    rw [hcode, near_zero, small_iff, magBits]
  · have hcode : codeOf x = some 1#2 ↔ near x 1 = true := by simp [codeOf_eq_some_iff]
    rw [hcode, near_one_iff, signBit_eq, decide_eq_false_iff_not, magBits]
    omega
  · have hcode : codeOf x = some 2#2 ↔ near x (-1) = true := by simp [codeOf_eq_some_iff]
    rw [hcode, near_neg_one_iff, signBit_eq, decide_eq_true_eq, magBits]
    omega
  · simp [codeOf_eq_some_iff]

/-! ## The Euler decomposition -/

theorem magVal_one : magVal 0x3F800000 = 1 := by norm_num [magVal, gridUnits]

theorem val_ONE : val ONE = 1 := by
  have hm : magBits ONE = 0x3F800000 := rfl
  rw [val_of_signBit_false (by decide), hm, magVal_one]

theorem val_MONE : val MONE = -1 := val_ONE ▸ val_neg ONE

/-- R111: strictly between -1.0 and 1.0 is a magnitude below 1. -/
theorem lt_ONE_and_MONE_lt_iff (x : Word) : (lt x ONE && lt MONE x) = true ↔ magBits x < 0x3F800000 := by
  have hONE : isNaN ONE = false := by decide
  have hMONE : isNaN MONE = false := by decide
  have hmag : (-1 < val x ∧ val x < 1) ↔ magBits x < 0x3F800000 := by
    rw [← abs_lt, abs_val, ← magVal_one, magVal_strictMono.lt_iff_lt]
  rw [Bool.and_eq_true, lt_iff, lt_iff, val_ONE, val_MONE, isNaN_eq_false_iff]
  simp only [hONE, hMONE, true_and]
  constructor
  · rintro ⟨⟨_, hbelow⟩, _, habove⟩
    exact hmag.1 ⟨habove, hbelow⟩
  · intro h
    obtain ⟨habove, hbelow⟩ := hmag.2 h
    exact ⟨⟨by omega, hbelow⟩, by omega, habove⟩

/-- R111: the test for the general branch. -/
theorem eulerXYZ_general_iff (x : Word) :
    (isNaN x || (lt x ONE && lt MONE x)) = true ↔ magBits x < 0x3F800000 ∨ 0x7F800000 < magBits x := by
  rw [Bool.or_eq_true, isNaN_iff, lt_ONE_and_MONE_lt_iff, or_comm]

/-- R111: outside the general branch the sign alone decides between the two gimbal branches. -/
theorem ge_ONE_eq {x : Word} (hlow : 0x3F800000 ≤ magBits x) (hhigh : magBits x ≤ 0x7F800000) :
    ge x ONE = !signBit x := by
  have hONE : isNaN ONE = false := by decide
  have hmag : 1 ≤ magVal (magBits x) := magVal_one ▸ magVal_strictMono.monotone hlow
  rw [Bool.eq_iff_iff, ge_iff, val_ONE]
  cases hs : signBit x with
  | false => simp [val_of_signBit_false hs, isNaN_eq_false_iff, hhigh, hONE, hmag]
  | true =>
    rw [val_of_signBit_true hs]
    simp only [Bool.not_true, Bool.false_eq_true, iff_false, not_and, not_le]
    intros
    linarith

section
variable (p : Params) {m : Mat3}

theorem eulerXYZ_of_general (h : magBits m.m02 < 0x3F800000 ∨ 0x7F800000 < magBits m.m02) :
    eulerXYZ p m = ⟨p.atan2_32 (neg m.m12) m.m22, p.asin32 m.m02, p.atan2_32 (neg m.m01) m.m00⟩ :=
  if_pos ((eulerXYZ_general_iff _).2 h)

theorem eulerXYZ_of_gimbal (hlow : 0x3F800000 ≤ magBits m.m02) (hhigh : magBits m.m02 ≤ 0x7F800000) :
    eulerXYZ p m =
      ⟨p.atan2_32 m.m21 m.m11, if signBit m.m02 then neg HALFPI32 else HALFPI32, PZERO⟩ := by
  have hgen : ¬(isNaN m.m02 || (lt m.m02 ONE && lt MONE m.m02)) = true := by
    rw [eulerXYZ_general_iff]
    omega
  simp only [eulerXYZ]
  rw [if_neg hgen, ge_ONE_eq hlow hhigh]
  cases signBit m.m02 <;> rfl

end

/-- Settles O27: the general branch by its test, the two gimbal branches by the sign. -/
theorem eulerBranches : Obligations.EulerBranches := by
  refine fun p m => ⟨eulerXYZ_of_general p, fun ⟨hlow, hhigh, hs⟩ => ?_, fun ⟨hlow, hhigh, hs⟩ => ?_⟩
  · rw [eulerXYZ_of_gimbal p hlow hhigh, signBit_eq, decide_eq_false hs.not_ge]
    rfl
  · rw [eulerXYZ_of_gimbal p hlow hhigh, signBit_eq, decide_eq_true hs]
    rfl

/-! ## The three tests of the guard chain -/

/-- The angles of a triple with their axis ids (R117). -/
def axisAngles (a : Vec3) : List (BitVec 2 × Word) := [(1#2, a.x), (2#2, a.y), (3#2, a.z)]

/-- R117 without an order of tests: q is an axis whose angle is big while those of the other axes are small. -/
def OnlyBigAxis (a : Vec3) (q : BitVec 2 × Word) : Prop :=
  q ∈ axisAngles a ∧ big q.2 = true ∧ ∀ q' ∈ axisAngles a, q'.1 ≠ q.1 → small q'.2 = true

/-- R114. -/
theorem isIdentity_iff (a : Vec3) : isIdentity a = true ↔ ∀ q ∈ axisAngles a, small q.2 = true := by
  simp [isIdentity, axisAngles, and_assoc]

/-- The nine codes as a list, in row-major order (R98, R99). -/
def Codes.toList (k : Codes) : List Code2 := [k.c1, k.c2, k.c3, k.c4, k.c5, k.c6, k.c7, k.c8, k.c9]

/-- R116: the test answers the codes of the nine entries. -/
theorem axisAlignedCodes_eq_some_iff (m : Mat3) (k : Codes) :
    axisAlignedCodes m = some k ↔ m.entries.map codeOf = k.toList.map some := by
  cases k
  simp [axisAlignedCodes, Codes.toList, Mat3.entries, Option.bind_eq_some_iff]

/-- R116: the test matches when every entry has a code. -/
theorem axisAlignedCodes_isSome_iff (m : Mat3) :
    (axisAlignedCodes m).isSome = true ↔ ∀ e ∈ m.entries, (codeOf e).isSome = true := by
  simp [Option.isSome_iff_exists, axisAlignedCodes, Mat3.entries, Option.bind_eq_some_iff]

/-- R117: the three guards that `OnlyBigAxis` stands for. -/
theorem onlyBigAxis_iff (a : Vec3) (q : BitVec 2 × Word) :
    OnlyBigAxis a q ↔
      ((1#2, a.x) = q ∧ big a.x = true ∧ small a.y = true ∧ small a.z = true) ∨
      ((2#2, a.y) = q ∧ small a.x = true ∧ big a.y = true ∧ small a.z = true) ∨
      ((3#2, a.z) = q ∧ small a.x = true ∧ small a.y = true ∧ big a.z = true) := by
  constructor
  · rintro ⟨hq, hbig, hsmall⟩
    simp only [axisAngles, List.mem_cons, List.not_mem_nil, or_false] at hq
    rcases hq with rfl | rfl | rfl <;> simpa [axisAngles, hbig] using hsmall
  · rintro (⟨rfl, h⟩ | ⟨rfl, h⟩ | ⟨rfl, h⟩) <;> simp [OnlyBigAxis, axisAngles, h]

/-- R117: the order of the three tests does not matter, since no angle is both big and small. -/
theorem singleAxis_eq_some_iff (a : Vec3) (q : BitVec 2 × Word) : singleAxis a = some q ↔ OnlyBigAxis a q := by
  rw [onlyBigAxis_iff]
  simp only [singleAxis, Bool.and_eq_true, and_assoc]
  split
  next h => simp [h, small_of_big h.1]
  split
  next h => simp [h, small_of_big h.2.1]
  split
  next h => simp [h, small_of_big h.2.2]
  next hx hy hz => simp only [hx, hy, hz, and_false, or_self, reduceCtorEq]

/-! ## The guard chain -/

section
variable (p : Params) (m : Mat3)

theorem classify_of_identity (h : isIdentity (eulerXYZ p m) = true) :
    classify p m = ⟨.identity, eulerXYZ p m, none, 0#2, PZERO⟩ := if_pos h

theorem classify_of_axisAligned {k : Codes} (hid : isIdentity (eulerXYZ p m) = false)
    (h : axisAlignedCodes m = some k) : classify p m = ⟨.axisAligned, eulerXYZ p m, some k, 0#2, PZERO⟩ := by
  simp [classify, hid, h]

theorem classify_of_singleAxis {q : BitVec 2 × Word} (hid : isIdentity (eulerXYZ p m) = false)
    (hcodes : axisAlignedCodes m = none) (h : singleAxis (eulerXYZ p m) = some q) :
    classify p m = ⟨.singleAxis, eulerXYZ p m, none, q.1, q.2⟩ := by
  simp [classify, hid, hcodes, h]

theorem classify_of_euler (hid : isIdentity (eulerXYZ p m) = false) (hcodes : axisAlignedCodes m = none)
    (h : singleAxis (eulerXYZ p m) = none) : classify p m = ⟨.euler, eulerXYZ p m, none, 0#2, PZERO⟩ := by
  simp [classify, hid, hcodes, h]

/-- R119: the triple is returned for every kind. -/
theorem classify_euler : (classify p m).euler = eulerXYZ p m := by
  cases hid : isIdentity (eulerXYZ p m) with
  | true => rw [classify_of_identity p m hid]
  | false =>
    cases hcodes : axisAlignedCodes m with
    | some k => rw [classify_of_axisAligned p m hid hcodes]
    | none =>
      cases haxis : singleAxis (eulerXYZ p m) with
      | some q => rw [classify_of_singleAxis p m hid hcodes haxis]
      | none => rw [classify_of_euler p m hid hcodes haxis]

end

/-- Settles O28: the equation of the branch that each clause names, its guards read through the three tests. -/
theorem classifyIsOrderedChain : Obligations.ClassifyIsOrderedChain := by
  intro p m
  have hnot : (¬∀ q ∈ axisAngles (eulerXYZ p m), small q.2 = true) → isIdentity (eulerXYZ p m) = false := by
    rw [← isIdentity_iff, Bool.not_eq_true]
    exact id
  have hnone : (¬∀ e ∈ m.entries, (codeOf e).isSome = true) → axisAlignedCodes m = none := by
    rw [← axisAlignedCodes_isSome_iff, Option.not_isSome_iff_eq_none]
    exact id
  refine ⟨classify_euler p m, fun hid => ?_, fun hid hall => ?_, fun hid hall q hq => ?_, fun hid hall hno => ?_⟩
  · exact classify_of_identity p m ((isIdentity_iff _).2 hid)
  · obtain ⟨k, hk⟩ := Option.isSome_iff_exists.1 ((axisAlignedCodes_isSome_iff m).2 hall)
    rw [classify_of_axisAligned p m (hnot hid) hk]
    exact ⟨rfl, rfl, rfl, k, rfl, ((axisAlignedCodes_eq_some_iff m k).1 hk).symm⟩
  · exact classify_of_singleAxis p m (hnot hid) (hnone hall) ((singleAxis_eq_some_iff _ q).2 hq)
  · refine classify_of_euler p m (hnot hid) (hnone hall) (Option.eq_none_iff_forall_ne_some.2 fun q hq => ?_)
    exact hno q ((singleAxis_eq_some_iff _ q).1 hq)

/-! ## CLASSIFY -/

/-- R123: code k counts 4^(k-1) in CODES. -/
theorem codesToBits_toNat (k : Codes) :
    (codesToBits k).toNat = k.c1.toNat + 4 * k.c2.toNat + 16 * k.c3.toNat + 64 * k.c4.toNat + 256 * k.c5.toNat
      + 1024 * k.c6.toNat + 4096 * k.c7.toNat + 16384 * k.c8.toNat + 65536 * k.c9.toNat := by
  simp only [codesToBits, append_toNat]
  omega

/-- R123: CODES is 0 for the kinds without codes. -/
theorem classCodes_of_ne_axisAligned {p : Params} {m : Mat3} (h : (classify p m).kind ≠ .axisAligned) :
    classCodes (classify p m) = 0#18 := by
  rw [ne_eq, ← classify_codes_isSome, Option.not_isSome_iff_eq_none] at h
  rw [classCodes, h]

/-- Settles O29: the rule of CLASSIFY at its completion, with the value of `classCodes` in CODES. -/
theorem classifyWritesClassification : Obligations.ClassifyWritesClassification := by
  refine ⟨decode_eq_ok_iff.2 (by decide), fun s => ⟨classCodes (classify Config.hw s.inRot), ?_, ?_, fun k hk => ?_⟩⟩
  · exact exec_eq .classify s
  · exact classCodes_of_ne_axisAligned
  · rw [classCodes, hk, codesToBits_toNat]

end Sys2Proof.Machine
end

section
/-! PROOF. The BitPacker family (41_bitpacker.md): one byte as four lanes (R98), CODES and PACKED as codes and bytes (R34,
R35), the laws of Pack and Unpack (R143), and the commands PACK and UNPACK on top of them (R144, R145). -/

namespace Sys2Proof.Machine

/-! ## One byte of four lanes -/

/-- A field of m bits from bit k on, as a number. -/
theorem field_toNat {n : Nat} (v : BitVec n) (k m : Nat) : (v.extractLsb' k m).toNat = v.toNat / 2 ^ k % 2 ^ m := by
  rw [BitVec.extractLsb'_toNat, Nat.shiftRight_eq_div_pow]

/-- R141: nothing stands above the first lane of a byte. -/
theorem firstLane_toNat (b : Byte) : (b.extractLsb' 6 2).toNat = b.toNat / 64 := by
  have := b.isLt
  rw [field_toNat]
  omega

/-- R140: the most significant lane comes first. -/
theorem lanes_toNat (a b c d : Code2) :
    (a ++ b ++ c ++ d).toNat = a.toNat * 64 + b.toNat * 16 + c.toNat * 4 + d.toNat := by
  simp only [append_toNat]
  omega

/-- R140, R141: each of four lanes is extracted as it was put in. -/
theorem extract_lanes (a b c d : Code2) :
    (a ++ b ++ c ++ d).extractLsb' 6 2 = a ∧ (a ++ b ++ c ++ d).extractLsb' 4 2 = b ∧
      (a ++ b ++ c ++ d).extractLsb' 2 2 = c ∧ (a ++ b ++ c ++ d).extractLsb' 0 2 = d := by
  simp (disch := decide) only [BitVec.extractLsb'_append_eq_of_le, BitVec.extractLsb'_append_eq_of_add_le,
    Nat.reduceSub, BitVec.extractLsb'_eq_self, and_self]

/-- R140, R141: a byte is its four lanes. -/
theorem lanes_extract (b : Byte) :
    b.extractLsb' 6 2 ++ b.extractLsb' 4 2 ++ b.extractLsb' 2 2 ++ b.extractLsb' 0 2 = b := by
  simp (disch := decide) only [BitVec.extractLsb'_append_extractLsb'_eq_extractLsb']
  exact BitVec.extractLsb'_eq_self

/-- R140, R141: the first lane of a byte over six zeros. -/
theorem firstLane_append_zero (b : Byte) : b.extractLsb' 6 2 ++ 0#6 = b &&& 0xC0#8 := by
  calc b.extractLsb' 6 2 ++ 0#6
      = (b.extractLsb' 6 2 ++ b.extractLsb' 0 6) &&& (BitVec.allOnes 2 ++ 0#6) := by
        rw [BitVec.and_append, BitVec.and_allOnes, BitVec.and_zero]
    _ = b &&& 0xC0#8 := congrArg (· &&& 0xC0#8) BitVec.extractLsb'_append_extractLsb'

/-! ## CODES and PACKED -/

/-- R34: the nine codes are the digits of CODES to base 4. -/
theorem codesToBits_injective : Function.Injective codesToBits := by
  intro c d h
  cases c
  cases d
  simp only [Codes.mk.injEq, ← BitVec.toNat_inj, codesToBits_toNat] at h ⊢
  refine ⟨?_, ?_, ?_, ?_, ?_, ?_, ?_, ?_, ?_⟩ <;> omega

/-- R34: CODES has no bits beside its nine codes. -/
theorem codesToBits_codesOfBits (v : BitVec 18) : codesToBits (codesOfBits v) = v := by
  simp (disch := decide) only [codesToBits, codesOfBits, BitVec.extractLsb'_append_extractLsb'_eq_extractLsb']
  exact BitVec.extractLsb'_eq_self

/-- R34: CODES holds nine codes apart. -/
theorem codesOfBits_codesToBits (c : Codes) : codesOfBits (codesToBits c) = c :=
  codesToBits_injective (codesToBits_codesOfBits _)

/-- R35: byte 1 in bits 7:0, byte 3 on top. -/
theorem packedToBits_toNat (b : Packed) :
    (packedToBits b).toNat = b.b1.toNat + 256 * b.b2.toNat + 65536 * b.b3.toNat := by
  simp only [packedToBits, append_toNat]
  omega

/-- R35: the three bytes in PACKED as numbers. -/
theorem packedOfBits_toNat (v : BitVec 24) :
    (packedOfBits v).b1.toNat = v.toNat % 256 ∧ (packedOfBits v).b2.toNat = v.toNat / 256 % 256 ∧
      (packedOfBits v).b3.toNat = v.toNat / 65536 := by
  have := v.isLt
  refine ⟨(field_toNat v 0 8).trans ?_, field_toNat v 8 8, (field_toNat v 16 8).trans ?_⟩ <;> omega

/-- R35: the three bytes are the digits of PACKED to base 256. -/
theorem packedToBits_injective : Function.Injective packedToBits := by
  intro b c h
  cases b
  cases c
  simp only [Packed.mk.injEq, ← BitVec.toNat_inj, packedToBits_toNat] at h ⊢
  refine ⟨?_, ?_, ?_⟩ <;> omega

/-- R35: PACKED has no bits beside its three bytes. -/
theorem packedToBits_packedOfBits (v : BitVec 24) : packedToBits (packedOfBits v) = v := by
  simp (disch := decide) only [packedToBits, packedOfBits, BitVec.extractLsb'_append_extractLsb'_eq_extractLsb']
  exact BitVec.extractLsb'_eq_self

/-- R35: PACKED holds three bytes apart. -/
theorem packedOfBits_packedToBits (b : Packed) : packedOfBits (packedToBits b) = b :=
  packedToBits_injective (packedToBits_packedOfBits _)

/-- R35: a mask on byte 3 of PACKED. -/
theorem packedToBits_and_b3 (b : Packed) (m : Byte) :
    packedToBits { b with b3 := b.b3 &&& m } = packedToBits b &&& (m ++ BitVec.allOnes 8 ++ BitVec.allOnes 8) := by
  simp only [packedToBits]
  rw [BitVec.and_append, BitVec.and_append, BitVec.and_allOnes, BitVec.and_allOnes]

/-! ## Pack and Unpack -/

/-- R140: the lanes of the three packed bytes as numbers. -/
theorem pack_toNat (c : Codes) :
    (pack c).b1.toNat = c.c1.toNat * 64 + c.c2.toNat * 16 + c.c3.toNat * 4 + c.c4.toNat ∧
      (pack c).b2.toNat = c.c5.toNat * 64 + c.c6.toNat * 16 + c.c7.toNat * 4 + c.c8.toNat ∧
      (pack c).b3.toNat = c.c9.toNat * 64 :=
  ⟨lanes_toNat _ _ _ _, lanes_toNat _ _ _ _, append_toNat _ _⟩

/-- R143, the first law. -/
theorem unpack_pack (c : Codes) : unpack (pack c) = c := by
  obtain ⟨h1, h2, h3, h4⟩ := extract_lanes c.c1 c.c2 c.c3 c.c4
  obtain ⟨h5, h6, h7, h8⟩ := extract_lanes c.c5 c.c6 c.c7 c.c8
  have h9 : (c.c9 ++ 0#6).extractLsb' 6 2 = c.c9 := BitVec.extractLsb'_append_eq_left
  rw [unpack, pack, h1, h2, h3, h4, h5, h6, h7, h8, h9]

/-- R143, the second law: byte 3 keeps its lane only. -/
theorem pack_unpack (b : Packed) : pack (unpack b) = { b with b3 := b.b3 &&& 0xC0#8 } := by
  simp only [pack, unpack, lanes_extract, firstLane_append_zero]

/-! ## PACK and UNPACK -/

/-- R144, R212: PACK's next state. -/
theorem exec_pack (s : State) :
    exec .pack s =
      .next { s with packed := packedToBits (pack (codesOfBits s.codes)), done := true, inflight := none } :=
  exec_eq .pack s

/-- R145, R212: UNPACK's next state. -/
theorem exec_unpack (s : State) :
    exec .unpack s =
      .next { s with codes := codesToBits (unpack (packedOfBits s.packed)), done := true, inflight := none } :=
  exec_eq .unpack s

/-- Settles O16: PACKED by its three bytes, each byte by its lanes, each lane by its bits of CODES. -/
theorem packFillsLanes : Obligations.PackFillsLanes := by
  refine ⟨decode_eq_ok_iff.2 (by decide), fun s => ⟨_, exec_pack s, ?_, BitVec.toNat_setWidth_of_le (by decide)⟩⟩
  obtain ⟨hb1, hb2, hb3⟩ := pack_toNat (codesOfBits s.codes)
  rw [packedToBits_toNat, hb1, hb2, hb3]
  simp only [codesOfBits, field_toNat, Nat.reduceSub, Nat.reducePow]

/-- Settles O17: CODES by its nine codes, each code by its lane in a byte of PACKED. -/
theorem unpackReadsLanes : Obligations.UnpackReadsLanes := by
  refine ⟨decode_eq_ok_iff.2 (by decide), fun s => ⟨_, exec_unpack s, ?_, BitVec.toNat_setWidth_of_le (by decide)⟩⟩
  obtain ⟨hb1, hb2, hb3⟩ := packedOfBits_toNat s.packed
  rw [codesToBits_toNat, ← hb1, ← hb2, ← hb3]
  simp only [unpack, firstLane_toNat]
  simp only [field_toNat, Nat.reducePow, Nat.div_one]

/-- Settles O18: the two laws, and between the two commands a register that gives back what was put in. -/
theorem packAndUnpackInvert : Obligations.PackAndUnpackInvert := by
  refine ⟨unpack_pack, pack_unpack, fun s t u => ⟨fun hpack hunpack => ?_, fun hunpack hpack => ?_⟩⟩
  · obtain rfl := Host.Outcome.next.inj ((exec_pack s).symm.trans hpack)
    obtain rfl := Host.Outcome.next.inj ((exec_unpack _).symm.trans hunpack)
    show codesToBits (unpack (packedOfBits (packedToBits (pack (codesOfBits s.codes))))) = s.codes
    rw [packedOfBits_packedToBits, unpack_pack, codesToBits_codesOfBits]
  · obtain rfl := Host.Outcome.next.inj ((exec_unpack s).symm.trans hunpack)
    obtain rfl := Host.Outcome.next.inj ((exec_pack _).symm.trans hpack)
    show packedToBits (pack (codesOfBits (codesToBits (unpack (packedOfBits s.packed))))) = s.packed &&& 0xC0FFFF#24
    rw [codesOfBits_codesToBits, pack_unpack, packedToBits_and_b3, packedToBits_packedOfBits]
    rfl

end Sys2Proof.Machine
end

section
/-! PROOF. The Encoder family (42_encoder.md): the shortest frame among the tests that match (R169), the bytes of a frame
(R160, R161), and the two completions of ENCODE (R164 to R168). -/

namespace Sys2Proof.Machine

/-! ## Frame lengths -/

/-- R160: the longest frame is Euler's. -/
theorem frameLen_le (k : EncodingKind) : frameLen k ≤ 25 := by cases k <;> decide

section
variable {p : Params} {m : Mat3}

/-- R119: the identity test comes first. -/
theorem frameLen_classify_of_identity (h : isIdentity (eulerXYZ p m) = true) : frameLen (classify p m).kind = 13 := by
  rw [classify_of_identity p m h]
  rfl

/-- R119: only a shorter frame comes before the axis-aligned one. -/
theorem frameLen_classify_le_of_axisAligned (h : (axisAlignedCodes m).isSome = true) :
    frameLen (classify p m).kind ≤ 16 := by
  obtain ⟨k, hk⟩ := Option.isSome_iff_exists.1 h
  cases hid : isIdentity (eulerXYZ p m) with
  | true => rw [frameLen_classify_of_identity hid]; decide
  | false => rw [classify_of_axisAligned p m hid hk, frameLen]

/-- R119: only shorter frames come before the single-axis one. -/
theorem frameLen_classify_le_of_singleAxis (h : (singleAxis (eulerXYZ p m)).isSome = true) :
    frameLen (classify p m).kind ≤ 18 := by
  obtain ⟨q, hq⟩ := Option.isSome_iff_exists.1 h
  cases hid : isIdentity (eulerXYZ p m) with
  | true => rw [frameLen_classify_of_identity hid]; decide
  | false =>
    cases hcodes : axisAlignedCodes m with
    | some k => exact (frameLen_classify_le_of_axisAligned (by rw [hcodes]; rfl)).trans (by decide)
    | none => rw [classify_of_singleAxis p m hid hcodes hq, frameLen]

end

/-! ## The example of R169: Rz(180 degrees) -/

/-- Rz(180 degrees): the matrix of R169's example. -/
def rz180 : Mat3 := ⟨MONE, PZERO, PZERO, PZERO, MONE, PZERO, PZERO, PZERO, ONE⟩

/-- R115: each of its entries is exactly 0, 1 or -1. -/
theorem rz180_axisAligned : (axisAlignedCodes rz180).isSome = true := by
  have hzero : codeOf PZERO = some 0#2 := (codesOnPatterns PZERO).1.2 (by decide)
  have hone : codeOf ONE = some 1#2 := (codesOnPatterns ONE).2.1.2 (by decide)
  have hmone : codeOf MONE = some 2#2 := (codesOnPatterns MONE).2.2.1.2 (by decide)
  simp [axisAlignedCodes_isSome_iff, Mat3.entries, rz180, hzero, hone, hmone]

/-- T4: its angle about Z is -pi, the zero in M[0][1] being negated. -/
theorem eulerXYZ_rz180_z {p : Params} (h : TrigT4 p) : (eulerXYZ p rz180).z = neg PI32 := by
  have hzero : val PZERO = 0 := by
    rw [val_of_signBit_false (by decide), ← magVal_zero]
    rfl
  have hneg : lt MONE PZERO = true := by
    rw [lt_iff, val_MONE, hzero]
    exact ⟨by decide, by decide, by norm_num⟩
  rw [eulerXYZ_of_general p (.inl (by decide))]
  exact (h.zero_neg MONE (.inr hneg)).2

/-- R169, under T4: it takes the axis-aligned frame, since it is no identity. -/
theorem frameLen_classify_rz180 {p : Params} (h : TrigT4 p) : frameLen (classify p rz180).kind = 16 := by
  have hlarge : small (neg PI32) = false := by
    rw [← Bool.not_eq_true, small_iff]
    decide
  have hid : isIdentity (eulerXYZ p rz180) = false := by
    simp [isIdentity, eulerXYZ_rz180_z h, hlarge]
  obtain ⟨k, hk⟩ := Option.isSome_iff_exists.1 rz180_axisAligned
  rw [classify_of_axisAligned p rz180 hid hk]
  rfl

/-- Settles O31: each bound by the tests that come no later in the chain. -/
theorem classifyIsMinimal : Obligations.ClassifyIsMinimal := by
  refine fun p m => ⟨fun h => (frameLen_classify_of_identity h).le, frameLen_classify_le_of_axisAligned,
    frameLen_classify_le_of_singleAxis, frameLen_le _, ?_⟩
  rintro _ h4 rfl
  exact frameLen_classify_rz180 h4

/-! ## The bytes of a frame -/

/-- The little-endian number of the four bytes of a list from index k on (R161, R65); bytes past its end count 0. -/
def wordAt (f : List Byte) (k : Nat) : Nat :=
  (f.getD k 0#8).toNat + 2 ^ 8 * (f.getD (k + 1) 0#8).toNat + 2 ^ 16 * (f.getD (k + 2) 0#8).toNat
    + 2 ^ 24 * (f.getD (k + 3) 0#8).toNat

/-- R161, R65: the four bytes of a word give back the word. -/
@[simp] theorem wordAt_leBytes (v : Word) : wordAt (leBytes v) 0 = v.toNat := by
  have hv := v.isLt
  show (v.extractLsb' 0 8).toNat + 2 ^ 8 * (v.extractLsb' 8 8).toNat + 2 ^ 16 * (v.extractLsb' 16 8).toNat
    + 2 ^ 24 * (v.extractLsb' 24 8).toNat = _
  simp only [field_toNat]
  omega

/-- What stands behind a word does not matter to it. -/
@[simp] theorem wordAt_leBytes_append (v : Word) (l : List Byte) : wordAt (leBytes v ++ l) 0 = v.toNat :=
  wordAt_leBytes v

/-- Behind one byte. -/
@[simp] theorem wordAt_cons_succ (b : Byte) (l : List Byte) (k : Nat) : wordAt (b :: l) (k + 1) = wordAt l k := rfl

/-- Behind the four bytes of a word. -/
@[simp] theorem wordAt_leBytes_append_add_four (v : Word) (l : List Byte) (k : Nat) :
    wordAt (leBytes v ++ l) (k + 4) = wordAt l k := rfl

section
variable (pos : Vec3) (c : Classification)

/-- R161: the payload stands behind the 13 bytes of the header. -/
theorem frameBytes_getD_payload (k : Nat) (d : Byte) :
    (frameBytes pos c).getD (k + 13) d = (payloadBytes c).getD k d := rfl

theorem wordAt_frameBytes_payload (k : Nat) : wordAt (frameBytes pos c) (k + 13) = wordAt (payloadBytes c) k := rfl

/-- R161: bytes 1 to 12 are the position. -/
theorem wordAt_frameBytes_position :
    wordAt (frameBytes pos c) 1 = pos.x.toNat ∧ wordAt (frameBytes pos c) 5 = pos.y.toNat ∧
      wordAt (frameBytes pos c) 9 = pos.z.toNat := by
  simp [frameBytes]

end

/-- R90, R161: the tag byte is the kind. -/
theorem tagByte_toNat (k : EncodingKind) : (tagByte k).toNat = (kindCode k).toNat :=
  BitVec.toNat_setWidth_of_le (by decide)

section
variable {c : Classification}

theorem payloadBytes_of_euler (h : c.kind = .euler) :
    payloadBytes c = leBytes c.euler.x ++ (leBytes c.euler.y ++ leBytes c.euler.z) := by
  rw [payloadBytes, h, List.append_assoc]

theorem payloadBytes_of_axisAligned {k : Codes} (h : c.kind = .axisAligned) (hk : c.codes = some k) :
    payloadBytes c = [(pack k).b1, (pack k).b2, (pack k).b3] := by
  rw [payloadBytes, h]
  simp only [packedPayload, hk]

theorem payloadBytes_of_singleAxis (h : c.kind = .singleAxis) :
    payloadBytes c = c.axis.zeroExtend 8 :: leBytes c.angle := by
  rw [payloadBytes, h]

end

/-- Settles O34: the header for every kind at once, then each kind's payload behind it. -/
theorem frameLayout : Obligations.FrameLayout := by
  intro p m pos
  have hlen := frameBytes_length p m pos
  have hbyte := frameBytes_getD_payload pos (classify p m)
  have hword := wordAt_frameBytes_payload pos (classify p m)
  obtain ⟨hx, hy, hz⟩ := wordAt_frameBytes_position pos (classify p m)
  refine ⟨hlen, tagByte_toNat _, hx, hy, hz, fun hk => ?_, fun hk => ?_, fun hk => ?_, fun hk => ?_⟩
  all_goals rw [hk] at hlen
  · have hp := payloadBytes_of_euler hk
    refine ⟨hlen, (hword 0).trans ?_, (hword 4).trans ?_, (hword 8).trans ?_⟩ <;> simp [hp]
  · exact hlen
  · obtain ⟨k, hc⟩ := Option.isSome_iff_exists.1 ((classify_codes_isSome p m).2 hk)
    have hp := payloadBytes_of_axisAligned hk hc
    refine ⟨hlen, k, hc, (hbyte 0 _).trans ?_, (hbyte 1 _).trans ?_, (hbyte 2 _).trans ?_⟩ <;> rw [hp] <;> rfl
  · have hp := payloadBytes_of_singleAxis hk
    refine ⟨hlen, (congrArg BitVec.toNat (hbyte 0 _)).trans ?_, (hword 1).trans ?_⟩ <;> rw [hp]
    · exact BitVec.toNat_setWidth_of_le (by decide : 2 ≤ 8)
    · simp

/-! ## The two completions of ENCODE -/

/-- R123: CODES of a classification with codes, and of one without. -/
theorem classCodes_of_codes_eq_some {c : Classification} {k : Codes} (h : c.codes = some k) :
    classCodes c = codesToBits k := by
  rw [classCodes, h]

theorem classCodes_of_codes_eq_none {c : Classification} (h : c.codes = none) : classCodes c = 0#18 := by
  rw [classCodes, h]

/-- The state of an ENCODE whose frame fits (R165 to R167, R212), as `boundsFaulted` is that of one whose frame does
not. -/
def encoded (p : Params) (s : State) : State :=
  { encodeFrame p s (classify p s.inRot) s.wrPtr.toNat (frameLen (classify p s.inRot).kind) with
    done := true, inflight := none }

/-- R165: byte k of the frame stands at index WR_PTR + k. -/
theorem readByte_encoded (p : Params) (s : State) {k : Nat} (hk : k < frameLen (classify p s.inRot).kind) :
    some (readByte p (encoded p s) (s.wrPtr.toNat + k)) = (frameBytes s.inPos (classify p s.inRot))[k]? := by
  rw [← frameBytes_length p s.inRot s.inPos] at hk
  refine (congrArg some (readByte_complete_encodeFrame p s _ _ _ _)).trans ?_
  rw [if_pos (by omega), Nat.add_sub_cancel_left, List.getElem?_eq_getElem hk, Option.getD_some]

section
variable {s : State}

/-- R164, R222. -/
theorem exec_encode_fault (hover : Config.hw.bufBytes < s.wrPtr.toNat + frameLen (classify Config.hw s.inRot).kind) :
    exec .encode s = .next (boundsFaulted s) := by
  rw [exec_eq, commandRule, encodeRule_eq, if_neg hover.not_ge, complete_raisedBounds]

/-- R165 to R167, R212. -/
theorem exec_encode_fits (hfits : s.wrPtr.toNat + frameLen (classify Config.hw s.inRot).kind ≤ Config.hw.bufBytes) :
    exec .encode s = .next (encoded Config.hw s) := by
  rw [exec_eq, commandRule, complete_encode_fits hfits, encoded]

/-- R165: no byte outside the frame changes. -/
theorem encoded_keptOutside {p : Params} (hfits : s.wrPtr.toNat + frameLen (classify p s.inRot).kind ≤ p.bufBytes) :
    BufKeptOutside p s (encoded p s) s.wrPtr.toNat (s.wrPtr.toNat + frameLen (classify p s.inRot).kind) := by
  rw [encoded, ← complete_encode_fits hfits]
  exact complete_encode_keptOutside hfits

end

/-- Settles O32: the completion of a fault. -/
theorem encodeBoundsFault : Obligations.EncodeBoundsFault := fun _ hover => exec_encode_fault hover

/-- Settles O33: the whole effect of ENCODE field by field, the buffer by the bytes inside and outside the frame. -/
theorem encodeWritesFrame : Obligations.EncodeWritesFrame := by
  refine ⟨decode_eq_ok_iff.2 (by decide), fun s hfits => ⟨encoded Config.hw s, exec_encode_fits hfits, rfl, ?_, ?_,
    tagByte_toNat _, fun k hk => classCodes_of_codes_eq_some hk, classCodes_of_codes_eq_none,
    fun k hk => readByte_encoded _ s hk, encoded_keptOutside hfits⟩⟩
  · have := Config.hw.bufBytes_le
    exact (BitVec.toNat_ofNat _ _).trans (Nat.mod_eq_of_lt (by omega))
  · have := frameLen_le (classify Config.hw s.inRot).kind
    exact (BitVec.toNat_ofNat _ _).trans (Nat.mod_eq_of_lt (by omega))

section
variable (p : Params) {s₁ s₂ : State}

/-- R168: the registers that ENCODE writes. -/
theorem encoded_registers_eq (hrot : s₁.inRot = s₂.inRot) (hptr : s₁.wrPtr = s₂.wrPtr) :
    (encoded p s₁).wrPtr = (encoded p s₂).wrPtr ∧ (encoded p s₁).len = (encoded p s₂).len ∧
      (encoded p s₁).tag = (encoded p s₂).tag ∧ ClsKept (encoded p s₁) (encoded p s₂) ∧
      (encoded p s₁).codes = (encoded p s₂).codes := by
  refine ⟨?_, ?_, ?_, ⟨?_, ?_, ?_, ?_⟩, ?_⟩ <;> simp [encoded, hrot, hptr]

/-- R168: the bytes that ENCODE writes. -/
theorem encoded_bufAgree (hpos : s₁.inPos = s₂.inPos) (hrot : s₁.inRot = s₂.inRot) (hptr : s₁.wrPtr = s₂.wrPtr) :
    BufAgree p (encoded p s₁) (encoded p s₂) s₁.wrPtr.toNat
      (s₁.wrPtr.toNat + frameLen (classify p s₁.inRot).kind) := by
  intro a hlo hhi
  obtain ⟨k, rfl⟩ := Nat.exists_eq_add_of_le hlo
  have hk : k < frameLen (classify p s₁.inRot).kind := by omega
  have hbyte := readByte_encoded p s₂ (hrot ▸ hk)
  rw [← hptr, ← hpos, ← hrot, ← readByte_encoded p s₁ hk] at hbyte
  exact Option.some.inj hbyte

end

/-- Settles O35: both states take the same branch. -/
theorem encodeDependsOnItsInputs : Obligations.EncodeDependsOnItsInputs := by
  intro s₁ s₂ t₁ t₂ hpos hrot hptr h₁ h₂
  rcases Nat.lt_or_ge Config.hw.bufBytes (s₁.wrPtr.toNat + frameLen (classify Config.hw s₁.inRot).kind)
    with hover | hfits
  · obtain rfl := Host.Outcome.next.inj ((exec_encode_fault hover).symm.trans h₁)
    obtain rfl := Host.Outcome.next.inj ((exec_encode_fault (hptr ▸ hrot ▸ hover)).symm.trans h₂)
    exact ⟨hptr, fun _ => ⟨rfl, rfl⟩, fun hfits => absurd hfits hover.not_ge⟩
  · obtain rfl := Host.Outcome.next.inj ((exec_encode_fits hfits).symm.trans h₁)
    obtain rfl := Host.Outcome.next.inj ((exec_encode_fits (hptr ▸ hrot ▸ hfits)).symm.trans h₂)
    obtain ⟨hwrPtr, hlen, htag, hcls, hcodes⟩ := encoded_registers_eq Config.hw hrot hptr
    exact ⟨hwrPtr, fun hover => absurd hfits hover.not_ge,
      fun _ => ⟨hlen, htag, hcls, hcodes, encoded_bufAgree Config.hw hpos hrot hptr⟩⟩

end Sys2Proof.Machine
end

section
/-! PROOF. The Decoder family (43_decoder.md): the two completions of DECODE (R190, R191, R197), its rotation tag by tag
(R192 to R196), the entries of the Euler matrix (R184, R185), DECODE as a function of the frame (R201), and what it gives
back of a frame that ENCODE wrote (R199). -/

namespace Sys2Proof.Machine

/-! ## The two completions of DECODE -/

/-- R189: no frame is shorter than its header. -/
theorem header_le_decodeLen (tag : Byte) : 13 ≤ decodeLen tag := by
  unfold decodeLen
  split <;> decide

/-- The state of a DECODE whose frame lies in the buffer (R197, R212), as `boundsFaulted` is that of one whose frame does
not. -/
def decoded (p : Params) (s : State) : State :=
  { decodeFrame p s s.cursor.toNat (readByte p s s.cursor.toNat) with done := true, inflight := none }

section
variable {p : Params} {s : State}

/-- R190, R191, R222. -/
theorem complete_decode_fault (hover : p.bufBytes < s.cursor.toNat + decodeLen (readByte p s s.cursor.toNat)) :
    complete s (decodeRule p s) = boundsFaulted s := by
  rw [decodeRule_eq, if_neg hover.not_ge, complete_raisedBounds]

/-- R197, R212. -/
theorem complete_decode_fits (hfits : s.cursor.toNat + decodeLen (readByte p s s.cursor.toNat) ≤ p.bufBytes) :
    complete s (decodeRule p s) = decoded p s := by
  rw [decodeRule_eq, if_pos hfits]
  rfl

end

/-- R197: DECODE's next state where its frame has a known tag and rotation. -/
theorem exec_decode_of_tag {s : State} {tag : Byte} {d : Decoded}
    (htag : readByte Config.hw s s.cursor.toNat = tag)
    (hfits : s.cursor.toNat + decodeLen tag ≤ Config.hw.bufBytes)
    (hrot : decodeRotation Config.hw s s.cursor.toNat tag = d) :
    exec .decode s = .next { s with
      outPos := decodePosition Config.hw s s.cursor.toNat, outRot := d.rot, len := BitVec.ofNat 8 (decodeLen tag),
      tag := tag, malformed := s.malformed || d.malformed, done := true, inflight := none } := by
  subst htag hrot
  rw [exec_eq, commandRule, complete_decode_fits hfits]
  rfl

/-- Settles O37: a header that does not fit is a frame that does not. -/
theorem decodeBoundsFault : Obligations.DecodeBoundsFault := by
  intro s hover
  have := header_le_decodeLen (readByte Config.hw s s.cursor.toNat)
  rw [exec_eq, commandRule, complete_decode_fault (by omega), boundsFaulted]

/-! ## The rotation of a frame, tag by tag -/

/-- R91: the tags with a meaning of their own, and the undefined ones. -/
theorem tag_cases (tag : Byte) : tag = 0#8 ∨ tag = 1#8 ∨ tag = 2#8 ∨ tag = 3#8 ∨ 4 ≤ tag.toNat := by
  simp only [← BitVec.toNat_inj, BitVec.toNat_ofNat]
  omega

section
variable (p : Params) (s : State) (c : Nat)

theorem decodeRotation_euler : decodeRotation p s c 0#8 = decodeEuler p s c := rfl

theorem decodeRotation_identity : decodeRotation p s c 1#8 = ⟨identityMatrix, false⟩ := rfl

theorem decodeRotation_axisAligned : decodeRotation p s c 2#8 = decodeAxisAligned p s c := rfl

theorem decodeRotation_singleAxis : decodeRotation p s c 3#8 = decodeSingleAxis p s c := rfl

/-- R196. -/
theorem decodeRotation_undefined {tag : Byte} (h : 4 ≤ tag.toNat) :
    decodeRotation p s c tag = ⟨identityMatrix, true⟩ := by
  unfold decodeRotation
  split
  case h_5 => rfl
  all_goals omega

/-- R196, R189: an undefined tag announces a header alone. -/
theorem decodeLen_undefined {tag : Byte} (h : 4 ≤ tag.toNat) : decodeLen tag = 13 := by
  unfold decodeLen
  split <;> omega

end

/-- Settles O38: tag 1 and the undefined tags differ in MALFORMED alone. -/
theorem decodeIdentityAndUndefinedTags : Obligations.DecodeIdentityAndUndefinedTags := by
  refine ⟨decode_eq_ok_iff.2 (by decide), fun s hfits htag => ?_⟩
  generalize hread : readByte Config.hw s s.cursor.toNat = tag at htag
  rcases htag with rfl | hundef
  · exact exec_decode_of_tag hread hfits (decodeRotation_identity _ s _)
  · have hlen := decodeLen_undefined hundef
    have hnext := exec_decode_of_tag hread (hlen ▸ hfits) (decodeRotation_undefined _ s _ hundef)
    rw [hlen] at hnext
    rw [hnext, decide_eq_true hundef]
    rfl

/-- Settles O41: a frame of tag 0 sets no MALFORMED. -/
theorem decodeEulerTag : Obligations.DecodeEulerTag := by
  intro s c hfits htag
  refine (exec_decode_of_tag htag hfits (decodeRotation_euler _ s c)).trans ?_
  simp only [decodeEuler, Bool.or_false]
  rfl

/-! ## Codes as a rotation -/

theorem Mat3.entries_injective : Function.Injective Mat3.entries := by
  intro m n h
  cases m
  cases n
  simpa [Mat3.entries, and_assoc] using h

/-- R186: row-major. -/
theorem codesMatrix_entries (k : Codes) : (codesMatrix k).entries = k.toList.map codeValue := rfl

/-- R186: the value of a code by its number. -/
theorem codeValue_eq (c : Code2) : codeValue c = if c.toNat = 1 then ONE else if c.toNat = 2 then MONE else PZERO := by
  revert c
  decide

/-- R186, R224: code 3 by its number. -/
theorem hasCode3_eq (k : Codes) : hasCode3 k = (k.toList.map BitVec.toNat).any (· == 3) := by
  have hcode : ∀ c : Code2, (c == 3#2) = (c.toNat == 3) := by decide
  simp only [hasCode3, Codes.toList, List.any_map, Function.comp_def, hcode]

/-- R141: the lanes of three packed bytes as numbers. -/
theorem unpack_toNat (b : Packed) :
    (unpack b).toList.map BitVec.toNat =
      [b.b1.toNat / 64, b.b1.toNat / 16 % 4, b.b1.toNat / 4 % 4, b.b1.toNat % 4,
       b.b2.toNat / 64, b.b2.toNat / 16 % 4, b.b2.toNat / 4 % 4, b.b2.toNat % 4, b.b3.toNat / 64] := by
  simp only [Codes.toList, unpack, List.map_cons, List.map_nil, firstLane_toNat]
  simp only [field_toNat, Nat.reducePow, Nat.div_one]

/-- Settles O39: the matrix and MALFORMED by the numbers of the nine lanes. -/
theorem decodeAxisAlignedTag : Obligations.DecodeAxisAlignedTag := by
  intro s c b1 b2 b3 lanes value hfits htag
  let k := unpack ⟨readByte Config.hw s (c + 13), readByte Config.hw s (c + 14), readByte Config.hw s (c + 15)⟩
  have hlanes : k.toList.map BitVec.toNat = lanes := unpack_toNat _
  refine ⟨codesMatrix k, ?_, ?_⟩
  · rw [codesMatrix_entries, ← hlanes, List.map_map]
    exact List.map_congr_left fun c _ => codeValue_eq c
  · rw [← hlanes, ← hasCode3_eq]
    exact exec_decode_of_tag htag hfits (decodeRotation_axisAligned _ s c)

/-! ## A rotation about one axis -/

section
variable (p : Params) {axis : Byte} (θ : Word)

theorem axisMatrix_x : axisMatrix p 1#8 θ =
    some ⟨ONE, PZERO, PZERO, PZERO, p.cos32 θ, neg (p.sin32 θ), PZERO, p.sin32 θ, p.cos32 θ⟩ := rfl

theorem axisMatrix_y : axisMatrix p 2#8 θ =
    some ⟨p.cos32 θ, PZERO, p.sin32 θ, PZERO, ONE, PZERO, neg (p.sin32 θ), PZERO, p.cos32 θ⟩ := rfl

theorem axisMatrix_z : axisMatrix p 3#8 θ =
    some ⟨p.cos32 θ, neg (p.sin32 θ), PZERO, p.sin32 θ, p.cos32 θ, PZERO, PZERO, PZERO, ONE⟩ := rfl

/-- R97, R195. -/
theorem axisMatrix_none (h1 : axis.toNat ≠ 1) (h2 : axis.toNat ≠ 2) (h3 : axis.toNat ≠ 3) :
    axisMatrix p axis θ = none := by
  unfold axisMatrix
  split
  case h_4 => rfl
  all_goals contradiction

end

section
variable {p : Params} {s : State} {c : Nat}

/-- R195: an axis id gives its rotation. -/
theorem decodeSingleAxis_of_some {r : Mat3}
    (h : axisMatrix p (readByte p s (c + 13)) (readWord p s (c + 14)) = some r) :
    decodeSingleAxis p s c = ⟨r, false⟩ := by
  simp only [decodeSingleAxis, h]

/-- R195: any other byte gives the identity. -/
theorem decodeSingleAxis_of_none
    (h : axisMatrix p (readByte p s (c + 13)) (readWord p s (c + 14)) = none) :
    decodeSingleAxis p s c = ⟨identityMatrix, true⟩ := by
  simp only [decodeSingleAxis, h]

end

/-- Settles O40: the three axis bytes one by one, then all the others. -/
theorem decodeSingleAxisTag : Obligations.DecodeSingleAxisTag := by
  intro s c axis θ sn cs I O hfits htag
  generalize hr : (if axis = 1 then _ else _ : Mat3) = r
  generalize hm : (!(axis == 1 || axis == 2 || axis == 3)) = m
  suffices hrot : decodeSingleAxis Config.hw s c = ⟨r, m⟩ from exec_decode_of_tag htag hfits hrot
  subst hr hm
  have hbyte : ∀ b : Byte, axis = b.toNat → readByte Config.hw s (c + 13) = b := fun _ => BitVec.eq_of_toNat_eq
  by_cases h1 : axis = 1
  · rw [decodeSingleAxis_of_some (hbyte 1#8 h1 ▸ axisMatrix_x _ _), if_pos h1, h1]
    rfl
  by_cases h2 : axis = 2
  · rw [decodeSingleAxis_of_some (hbyte 2#8 h2 ▸ axisMatrix_y _ _), if_neg h1, if_pos h2, h2]
    rfl
  by_cases h3 : axis = 3
  · rw [decodeSingleAxis_of_some (hbyte 3#8 h3 ▸ axisMatrix_z _ _), if_neg h1, if_neg h2, if_pos h3, h3]
    rfl
  · rw [decodeSingleAxis_of_none (axisMatrix_none _ _ h1 h2 h3), if_neg h1, if_neg h2, if_neg h3,
      beq_false_of_ne h1, beq_false_of_ne h2, beq_false_of_ne h3]
    rfl

/-! ## The Euler matrix -/

section
variable (p : Params) (e : Rat) {operands : List Word}

/-- R184: the exact value rounded once. -/
theorem rnd_of_isFinite (h : ∀ o ∈ operands, isFinite o = true) : rnd p e operands = round32 p e :=
  if_pos (List.all_eq_true.2 h)

/-- R184: one operand that is not finite is enough. -/
theorem rnd_of_not_isFinite {o : Word} (h : isFinite o = false) (ho : o ∈ operands) : rnd p e operands = CNAN :=
  if_neg fun hall => by simp [List.all_eq_true.1 hall o ho] at h

end

/-- Settles O42: each entry is one `rnd` over the operands that R185 names. -/
theorem eulerMatrixEntries : Obligations.EulerMatrixEntries := by
  intro p a
  refine ⟨rfl, fun hcy hcz => ?_, fun hcy hsz => ?_, fun hsx hcy => ?_, fun hcx hcy => ?_,
    fun hsx hcx hsy hsz hcz => ?_, fun h => ?_, fun h => ?_, fun h => ?_, fun h => ?_, fun h => ?_, fun h => ?_⟩
  · exact rnd_of_isFinite p _ (by simp [hcy, hcz])
  · exact congrArg neg (rnd_of_isFinite p _ (by simp [hcy, hsz]))
  · exact congrArg neg (rnd_of_isFinite p _ (by simp [hsx, hcy]))
  · exact rnd_of_isFinite p _ (by simp [hcx, hcy])
  · refine ⟨?_, ?_, ?_, ?_⟩ <;> exact rnd_of_isFinite p _ (by simp [hsx, hcx, hsy, hsz, hcz])
  all_goals
    have hnan := fun e operands => rnd_of_not_isFinite p e (operands := operands) h
    simp [eulerMatrix, mul, hnan, neg, CNAN]

theorem val_PZERO : val PZERO = 0 := by
  rw [val_of_signBit_false (by decide), ← magVal_zero]
  rfl

/-- R184: the value of a finite pattern survives its rounding; only the sign of a zero may not. -/
theorem val_round32_val (p : Params) {x : Word} (h : isFinite x = true) : val (round32 p (val x)) = val x := by
  obtain ⟨-, -, hzero, hexact⟩ := round32ExtremesAndExactness p
  by_cases h0 : val x = 0
  · rw [h0, hzero, val_PZERO]
  · rw [hexact x h h0]

/-- Settles O43: with the sine of a zero 0 and its cosine 1, each exact sum of R185 is 0, 1, or the value of the sine or
cosine of θ up to its sign. -/
theorem eulerMatrixAgreesWithAxisX : Obligations.EulerMatrixAgreesWithAxisX := by
  intro p ⟨hsin0, _⟩ ⟨hcos0, _⟩ h6 θ hθ r hr
  rw [axisMatrix_x, Option.some.injEq] at hr
  subst hr
  have hsx : isFinite (p.sin32 θ) = true := (h6.sin_le θ hθ).1
  have hcx : isFinite (p.cos32 θ) = true := (h6.cos_le θ hθ).1
  have hzero : isFinite PZERO = true := by decide
  have hone : isFinite ONE = true := by decide
  have hround0 : val (round32 p 0) = 0 := by rw [← val_PZERO, val_round32_val p hzero]
  have hround1 : val (round32 p 1) = 1 := by rw [← val_ONE, val_round32_val p hone]
  simp [Mat3.entries, eulerMatrix, mul, rnd_of_isFinite, hsin0, hcos0, hsx, hcx, hzero, hone, val_PZERO, val_ONE,
    val_neg, val_round32_val p hsx, val_round32_val p hcx, hround0, hround1]

/-! ## Codes of a classification -/

section
variable {p : Params} {m : Mat3} {k : Codes}

/-- R116: the test answers no code 3 (R115). -/
theorem hasCode3_of_axisAlignedCodes (h : axisAlignedCodes m = some k) : hasCode3 k = false := by
  rw [axisAlignedCodes_eq_some_iff] at h
  have hcodes : ∀ c ∈ k.toList, c ≠ 3#2 := by
    rintro c hc rfl
    have hmem : some 3#2 ∈ m.entries.map codeOf := h ▸ List.mem_map_of_mem hc
    obtain ⟨x, -, hx⟩ := List.mem_map.1 hmem
    exact (codesOnPatterns x).2.2.2 hx
  exact List.any_eq_false.2 fun c hc => by simpa using hcodes c hc

/-- R119: the codes of a classification are the test's. -/
theorem axisAlignedCodes_of_classify (h : (classify p m).codes = some k) : axisAlignedCodes m = some k := by
  cases hid : isIdentity (eulerXYZ p m) with
  | true => simp [classify_of_identity p m hid] at h
  | false =>
    cases hcodes : axisAlignedCodes m with
    | some k' => simpa [classify_of_axisAligned p m hid hcodes] using h
    | none =>
      cases haxis : singleAxis (eulerXYZ p m) with
      | some q => simp [classify_of_singleAxis p m hid hcodes haxis] at h
      | none => simp [classify_of_euler p m hid hcodes haxis] at h

end

/-- R115, R186: an entry of exactly +0.0, 1.0 or -1.0 has a code, and that code's value is the entry. -/
theorem codeOf_map_codeValue {e : Word} (h : e = 0x00000000#32 ∨ e = 0x3F800000#32 ∨ e = 0xBF800000#32) :
    (codeOf e).map codeValue = some e := by
  obtain ⟨hzero, hone, hmone, -⟩ := codesOnPatterns e
  rcases h with rfl | rfl | rfl
  · rw [hzero.2 (by decide)]
    rfl
  · rw [hone.2 (by decide)]
    rfl
  · rw [hmone.2 (by decide)]
    rfl

/-- Settles O46: the values of the codes are the entries, one by one. -/
theorem exactMatrixSurvivesCodes : Obligations.ExactMatrixSurvivesCodes := by
  intro m hm
  have hvalues : ∀ e ∈ m.entries, (codeOf e).map codeValue = some e := fun e he => codeOf_map_codeValue (hm e he)
  have hsome : (axisAlignedCodes m).isSome = true := by
    rw [axisAlignedCodes_isSome_iff]
    intro e he
    rw [← Option.isSome_map, hvalues e he, Option.isSome_some]
  obtain ⟨k, hk⟩ := Option.isSome_iff_exists.1 hsome
  refine ⟨k, hk, Mat3.entries_injective ((Option.some_injective _).list_map ?_)⟩
  calc (codesMatrix k).entries.map some
      = (k.toList.map some).map (Option.map codeValue) := rfl
    _ = m.entries.map fun e => (codeOf e).map codeValue := by
      rw [← (axisAlignedCodes_eq_some_iff m k).1 hk, List.map_map, Function.comp_def]
    _ = m.entries.map some := List.map_congr_left hvalues

/-! ## DECODE reads the frame alone -/

section
variable {p : Params} {s₁ s₂ : State} {lo hi : Nat}

theorem BufAgree.mono {lo' hi' : Nat} (h : BufAgree p s₁ s₂ lo hi) (hlo : lo ≤ lo') (hhi : hi' ≤ hi) :
    BufAgree p s₁ s₂ lo' hi' := fun a ha hb => h a (hlo.trans ha) (hb.trans_le hhi)

theorem readWord_congr {a : Nat} (h : BufAgree p s₁ s₂ a (a + 4)) : readWord p s₂ a = readWord p s₁ a := by
  rw [readWord, readWord, h a (by omega) (by omega), h (a + 1) (by omega) (by omega), h (a + 2) (by omega) (by omega),
    h (a + 3) (by omega) (by omega)]

/-- R181: the position stands in the header. -/
theorem decodePosition_congr {c : Nat} (h : BufAgree p s₁ s₂ c (c + 13)) :
    decodePosition p s₂ c = decodePosition p s₁ c := by
  rw [decodePosition, decodePosition, readWord_congr (h.mono (by omega) (by omega)),
    readWord_congr (h.mono (by omega) (by omega)), readWord_congr (h.mono (by omega) (by omega))]

/-- R192 to R196, R201: the rotation is read from as many bytes as the tag announces. -/
theorem decodeRotation_congr {c : Nat} {tag : Byte} (h : BufAgree p s₁ s₂ c (c + decodeLen tag)) :
    decodeRotation p s₂ c tag = decodeRotation p s₁ c tag := by
  rcases tag_cases tag with rfl | rfl | rfl | rfl | hundef
  · have hlen : decodeLen 0#8 = 25 := rfl
    rw [decodeRotation_euler, decodeRotation_euler, decodeEuler, decodeEuler,
      readWord_congr (h.mono (by omega) (by omega)), readWord_congr (h.mono (by omega) (by omega)),
      readWord_congr (h.mono (by omega) (by omega))]
  · rw [decodeRotation_identity, decodeRotation_identity]
  · have hlen : decodeLen 2#8 = 16 := rfl
    rw [decodeRotation_axisAligned, decodeRotation_axisAligned, decodeAxisAligned, decodeAxisAligned,
      h (c + 13) (by omega) (by omega), h (c + 14) (by omega) (by omega), h (c + 15) (by omega) (by omega)]
  · have hlen : decodeLen 3#8 = 18 := rfl
    rw [decodeRotation_singleAxis, decodeRotation_singleAxis, decodeSingleAxis, decodeSingleAxis,
      h (c + 13) (by omega) (by omega), readWord_congr (h.mono (by omega) (by omega))]
  · rw [decodeRotation_undefined p s₂ c hundef, decodeRotation_undefined p s₁ c hundef]

end

/-- Settles O44: both states have the same tag, so both frames fit or neither does. -/
theorem decodeDependsOnFrameAlone : Obligations.DecodeDependsOnFrameAlone := by
  intro s₁ s₂ t₁ t₂ c n hcursor hframe h₁ h₂
  have hheader := header_le_decodeLen (readByte Config.hw s₁ c)
  have htag : readByte Config.hw s₂ s₂.cursor.toNat = readByte Config.hw s₁ c :=
    hcursor ▸ hframe c le_rfl (by omega)
  have hpos : decodePosition Config.hw s₂ s₂.cursor.toNat = decodePosition Config.hw s₁ c :=
    hcursor ▸ decodePosition_congr (hframe.mono le_rfl (by omega))
  have hrot : decodeRotation Config.hw s₂ s₂.cursor.toNat (readByte Config.hw s₁ c) =
      decodeRotation Config.hw s₁ c (readByte Config.hw s₁ c) := hcursor ▸ decodeRotation_congr hframe
  obtain rfl := Host.Outcome.next.inj ((exec_eq .decode s₁).symm.trans h₁)
  obtain rfl := Host.Outcome.next.inj ((exec_eq .decode s₂).symm.trans h₂)
  simp only [commandRule]
  rcases Nat.lt_or_ge Config.hw.bufBytes (c + n) with hover | hfits
  · rw [complete_decode_fault hover, complete_decode_fault (by rwa [htag, ← hcursor])]
    exact ⟨fun hfits => absurd hfits hover.not_ge, id, fun _ => rfl⟩
  · rw [complete_decode_fits hfits, complete_decode_fits (by rwa [htag, ← hcursor]), decoded, decoded, htag]
    refine ⟨fun _ => ⟨⟨hpos, ?_⟩, rfl, rfl⟩, fun hm => ?_, id⟩
    · exact congrArg Decoded.rot hrot
    · simp only [decodeFrame_malformed, hm, hrot, c]

/-! ## A frame that ENCODE wrote -/

/-- The state of an ENCODE whose frame fits, with CURSOR set to the place of the frame (R199). -/
def rewound (p : Params) (s : State) : State := { encoded p s with cursor := s.wrPtr }

section
variable (p : Params) (s : State)

theorem readByte_rewound {k : Nat} (hk : k < frameLen (classify p s.inRot).kind) :
    readByte p (rewound p s) (s.wrPtr.toNat + k) = (frameBytes s.inPos (classify p s.inRot)).getD k 0#8 := by
  rw [List.getD_eq_getElem?_getD, ← readByte_encoded p s hk, Option.getD_some]
  exact readByte_congr p rfl rfl _

theorem readWord_rewound {k : Nat} (hk : k + 4 ≤ frameLen (classify p s.inRot).kind) :
    (readWord p (rewound p s) (s.wrPtr.toNat + k)).toNat = wordAt (frameBytes s.inPos (classify p s.inRot)) k := by
  have hbyte : ∀ j < 4, readByte p (rewound p s) (s.wrPtr.toNat + k + j) =
      (frameBytes s.inPos (classify p s.inRot)).getD (k + j) 0#8 := fun j hj => by
    rw [Nat.add_assoc, readByte_rewound p s (by omega)]
  rw [memReadIsLittleEndian, hbyte 1 (by decide), hbyte 2 (by decide), hbyte 3 (by decide),
    readByte_rewound p s (by omega), wordAt]

/-- R160: every frame has a header. -/
theorem header_le_frameLen (k : EncodingKind) : 13 ≤ frameLen k := decodeLen_tagByte k ▸ header_le_decodeLen _

/-- R161, R189: the tag byte is the kind. -/
theorem tag_rewound :
    readByte p (rewound p s) (rewound p s).cursor.toNat = tagByte (classify p s.inRot).kind := by
  have := header_le_frameLen (classify p s.inRot).kind
  exact readByte_rewound p s (k := 0) (by omega)

/-- R163, R181: the position comes back bit for bit. -/
theorem decodePosition_rewound : decodePosition p (rewound p s) s.wrPtr.toNat = s.inPos := by
  have := header_le_frameLen (classify p s.inRot).kind
  obtain ⟨hx, hy, hz⟩ := wordAt_frameBytes_position s.inPos (classify p s.inRot)
  rw [decodePosition, BitVec.eq_of_toNat_eq ((readWord_rewound p s (by omega)).trans hx),
    BitVec.eq_of_toNat_eq ((readWord_rewound p s (by omega)).trans hy),
    BitVec.eq_of_toNat_eq ((readWord_rewound p s (by omega)).trans hz)]

/-- What DECODE makes of the rotation in the frame (R192 to R196). -/
def rotationBack : Decoded :=
  decodeRotation p (rewound p s) s.wrPtr.toNat (tagByte (classify p s.inRot).kind)

/-- R197, R212: the DECODE of the frame. -/
theorem complete_decode_rewound (hfits : s.wrPtr.toNat + frameLen (classify p s.inRot).kind ≤ p.bufBytes) :
    complete (rewound p s) (decodeRule p (rewound p s)) =
      { rewound p s with
        outPos := s.inPos, outRot := (rotationBack p s).rot,
        len := BitVec.ofNat 8 (frameLen (classify p s.inRot).kind), tag := tagByte (classify p s.inRot).kind,
        malformed := s.malformed || (rotationBack p s).malformed, done := true, inflight := none } := by
  have htag := tag_rewound p s
  have hlen := decodeLen_tagByte (classify p s.inRot).kind
  rw [complete_decode_fits (by rwa [htag, hlen]), decoded, htag, decodeFrame, hlen, ← decodePosition_rewound p s]
  rfl

variable {p s}

theorem rotationBack_of_identity (h : (classify p s.inRot).kind = .identity) :
    rotationBack p s = ⟨identityMatrix, false⟩ := by
  rw [rotationBack, h]
  exact decodeRotation_identity _ _ _

/-- R143, R193: the three packed bytes unpack to the nine codes, none of which is 3. -/
theorem rotationBack_of_axisAligned {k : Codes} (h : (classify p s.inRot).kind = .axisAligned)
    (hk : (classify p s.inRot).codes = some k) : rotationBack p s = ⟨codesMatrix k, false⟩ := by
  obtain ⟨-, -, -, -, -, -, -, haligned, -⟩ := frameLayout p s.inRot s.inPos
  obtain ⟨-, k', hk', hb1, hb2, hb3⟩ := haligned h
  obtain rfl : k' = k := Option.some.inj (hk'.symm.trans hk)
  have hlen : frameLen (classify p s.inRot).kind = 16 := h ▸ rfl
  have hpack : pack k' = ⟨readByte p (rewound p s) (s.wrPtr.toNat + 13), readByte p (rewound p s) (s.wrPtr.toNat + 14),
      readByte p (rewound p s) (s.wrPtr.toNat + 15)⟩ := by
    rw [readByte_rewound p s (by omega), readByte_rewound p s (by omega), readByte_rewound p s (by omega), hb1, hb2, hb3]
  calc rotationBack p s
      = decodeAxisAligned p (rewound p s) s.wrPtr.toNat := by
        rw [rotationBack, h]
        exact decodeRotation_axisAligned _ _ _
    _ = ⟨codesMatrix (unpack (pack k')), hasCode3 (unpack (pack k'))⟩ := by rw [hpack, decodeAxisAligned]
    _ = ⟨codesMatrix k', false⟩ := by
        rw [unpack_pack, hasCode3_of_axisAlignedCodes (axisAlignedCodes_of_classify hk)]

/-- R117: the axis of a single-axis classification is an axis id, so it has a rotation. -/
theorem axisMatrix_of_classify {m : Mat3} (h : (classify p m).kind = .singleAxis) :
    ∃ r, axisMatrix p ((classify p m).axis.zeroExtend 8) (classify p m).angle = some r := by
  have hids : ∀ axis : BitVec 2, axis = 0#2 ∨ axis.zeroExtend 8 = 1#8 ∨ axis.zeroExtend 8 = 2#8 ∨
      axis.zeroExtend 8 = 3#8 := by decide
  have hlegal : clsLegal (writeClassification State.reset (classify p m)) := clsLegal_of_classify p m rfl rfl rfl rfl
  rw [clsLegal, writeClassification_clsKind, h, kindCode, if_pos rfl] at hlegal
  obtain ⟨haxis, -⟩ := hlegal
  rcases hids (classify p m).axis with h0 | h1 | h2 | h3
  · rw [writeClassification_clsAxis, h0] at haxis
    cases haxis
  · exact ⟨_, h1 ▸ axisMatrix_x p _⟩
  · exact ⟨_, h2 ▸ axisMatrix_y p _⟩
  · exact ⟨_, h3 ▸ axisMatrix_z p _⟩

/-- R195: the axis byte and the angle come back. -/
theorem rotationBack_of_singleAxis (h : (classify p s.inRot).kind = .singleAxis) :
    ∃ r, axisMatrix p ((classify p s.inRot).axis.zeroExtend 8) (classify p s.inRot).angle = some r ∧
      rotationBack p s = ⟨r, false⟩ := by
  obtain ⟨-, -, -, -, -, -, -, -, hsingle⟩ := frameLayout p s.inRot s.inPos
  obtain ⟨-, haxis, hangle⟩ := hsingle h
  have hlen : frameLen (classify p s.inRot).kind = 18 := h ▸ rfl
  have hbyte : readByte p (rewound p s) (s.wrPtr.toNat + 13) = (classify p s.inRot).axis.zeroExtend 8 := by
    rw [readByte_rewound p s (by omega)]
    exact BitVec.eq_of_toNat_eq (haxis.trans (BitVec.toNat_setWidth_of_le (by decide : 2 ≤ 8)).symm)
  have hword : readWord p (rewound p s) (s.wrPtr.toNat + 14) = (classify p s.inRot).angle :=
    BitVec.eq_of_toNat_eq ((readWord_rewound p s (by omega)).trans hangle)
  obtain ⟨r, hr⟩ := axisMatrix_of_classify h
  refine ⟨r, hr, ?_⟩
  rw [rotationBack, h]
  exact decodeSingleAxis_of_some (by rw [hbyte, hword, hr])

/-- R194: the three angles come back bit for bit. -/
theorem rotationBack_of_euler (h : (classify p s.inRot).kind = .euler) :
    rotationBack p s = ⟨eulerMatrix p (classify p s.inRot).euler, false⟩ := by
  obtain ⟨-, -, -, -, -, heuler, -⟩ := frameLayout p s.inRot s.inPos
  obtain ⟨-, hx, hy, hz⟩ := heuler h
  have hlen : frameLen (classify p s.inRot).kind = 25 := h ▸ rfl
  rw [rotationBack, h]
  refine (decodeRotation_euler _ _ _).trans ?_
  rw [decodeEuler, BitVec.eq_of_toNat_eq ((readWord_rewound p s (by omega)).trans hx),
    BitVec.eq_of_toNat_eq ((readWord_rewound p s (by omega)).trans hy),
    BitVec.eq_of_toNat_eq ((readWord_rewound p s (by omega)).trans hz)]

/-- R198: no frame of ENCODE is malformed. -/
theorem rotationBack_malformed : (rotationBack p s).malformed = false := by
  cases h : (classify p s.inRot).kind with
  | identity => rw [rotationBack_of_identity h]
  | axisAligned =>
    obtain ⟨k, hk⟩ := Option.isSome_iff_exists.1 ((classify_codes_isSome p s.inRot).2 h)
    rw [rotationBack_of_axisAligned h hk]
  | singleAxis =>
    obtain ⟨r, -, hback⟩ := rotationBack_of_singleAxis h
    rw [hback]
  | euler => rw [rotationBack_of_euler h]

end

/-- Settles O45: the state after the DECODE, and the rotation kind by kind. -/
theorem encodeThenDecodeRoundTrip : Obligations.EncodeThenDecodeRoundTrip := by
  refine ⟨fun s => ⟨exec_eq .encode s, exec_eq .decode s⟩, ?_⟩
  intro p s c hfits
  rw [complete_encode_fits hfits]
  intro t v u
  have hu : u = _ := complete_decode_rewound p s hfits
  have hlen : u.len.toNat = frameLen c.kind := by
    have := frameLen_le (classify p s.inRot).kind
    rw [hu]
    exact (BitVec.toNat_ofNat _ _).trans (Nat.mod_eq_of_lt (by omega))
  have hrot : u.outRot = (rotationBack p s).rot := by rw [hu]
  refine ⟨by rw [hu]; rfl, ?_, by rw [hu], by rw [hu]; rfl, hlen, by rw [hu]; rfl, fun hk => ?_, fun hk => ?_,
    fun hk => ?_, fun hk => ?_⟩
  · rw [hu, rotationBack_malformed, Bool.or_false]
  · rw [hrot, rotationBack_of_identity hk]
  · obtain ⟨k, hcodes⟩ := Option.isSome_iff_exists.1 ((classify_codes_isSome p s.inRot).2 hk)
    exact ⟨k, hcodes, by rw [hrot, rotationBack_of_axisAligned hk hcodes]⟩
  · obtain ⟨r, hr, hback⟩ := rotationBack_of_singleAxis hk
    rw [hrot, hback, hr]
  · rw [hrot, rotationBack_of_euler hk]

end Sys2Proof.Machine
end

section
/-! PROOF. The control family (44_control.md): the three answers to a CMD write (R210), the completion of a command (R212),
and the way of a command in flight to its completion under a host that keeps to R260 (R270). -/

namespace Sys2Proof.Machine

section
variable {s : State} {i : Instr} {n : Nat} {w : Word} {rest : List HostEvent}

/-! ## CMD writes -/

/-- R210: a 32-bit write at offset 0x10 is a write to CMD, with a meaning whatever is in flight (R20, R260). -/
theorem hostAction_write_cmd (p : Params) (hr : s.resetAsserted = false) :
    hostAction p s (.write 4 0x10#17 w) = .next (writeCmd p s w) :=
  hostWrite_reg (r := .cmd) p w hr (.inr rfl)

/-- R213: the word is dropped. -/
theorem writeCmd_of_busy (p : Params) (w : Word) (hi : s.inflight = some i) :
    writeCmd p s w = { s with illegal := true } := by
  simp [writeCmd, hi]

/-- R215: an idle block answers a word that selects no command at once. -/
theorem writeCmd_of_error (p : Params) {e : DecodeError} (hi : s.inflight = none) (hd : decode w = .error e) :
    writeCmd p s w = { s with illegal := true, done := true } := by
  simp [writeCmd, hi, hd]

/-- R213, as the host's write to CMD. -/
theorem hostAction_write_cmd_of_busy (p : Params) (hr : s.resetAsserted = false) (hi : s.inflight = some i) :
    hostAction p s (.write 4 0x10#17 w) = .next { s with illegal := true } :=
  (hostAction_write_cmd p hr).trans (congrArg _ (writeCmd_of_busy p w hi))

/-- R215, as the host's write to CMD. -/
theorem hostAction_write_cmd_of_error (p : Params) {e : DecodeError} (hr : s.resetAsserted = false)
    (hi : s.inflight = none) (hd : decode w = .error e) :
    hostAction p s (.write 4 0x10#17 w) = .next { s with illegal := true, done := true } :=
  (hostAction_write_cmd p hr).trans (congrArg _ (writeCmd_of_error p hi hd))

/-- R82, R215: a word with a reserved bit or a reserved opcode selects no command. -/
theorem decode_eq_error_of_reserved (h : w.extractLsb' 8 24 ≠ 0#24 ∨ 0x06 ≤ (w.extractLsb' 0 8).toNat) :
    ∃ e, decode w = .error e := by
  rcases decode_cases w with ⟨_, hd⟩ | ⟨_, _, hd⟩ | ⟨i, rfl, _⟩
  · exact ⟨_, hd⟩
  · exact ⟨_, hd⟩
  · exact absurd h (by cases i <;> decide)

/-! ## Turns -/

/-- R212: with no step left to wait the command in flight completes. -/
theorem step_of_ready (hr : s.resetAsserted = false) (hi : s.inflight = some i) (hw : s.wait = 0) :
    step s = exec i s :=
  step_engine (by simp [turn, hr, hi, hw])

/-- R212: with a step left to wait the host moves and that step is used up (log 2). -/
theorem step_of_waiting (hr : s.resetAsserted = false) (hi : s.inflight = some i) (hw : s.wait = n + 1) :
    step s = hostStep Config.hw { s with wait := n } :=
  step_host (by simp [turn, hr, hi, hw])

/-- The state in which the word of a command is about to be run (log 3). -/
theorem withFetchWord_of_ok (hd : decode w = .ok i) :
    s.withFetchWord 32 w.toNat = { s with resetAsserted := false, inflight := some i, wait := 0 } := by
  simp only [State.withFetchWord, tableWord_toNat, placeCommand, hd]

/-- R212: a completion sets DONE. -/
theorem complete_done (s : State) (r : CmdResult) : (complete s r).done = true := by
  cases r <;> rfl

end

/-! ## Acceptance, reserved words and dropped words -/

/-- Settles O5: the word is the command's own, whose write `step_cmdEvent` describes. -/
theorem cmdWriteAcceptsCommand : Obligations.CmdWriteAcceptsCommand := by
  intro s w i rest hr hi hh hd
  obtain rfl := decode_eq_ok_iff.1 hd
  exact ⟨step_cmdEvent hr hi hh, by rw [statusWord_eq, statusBits_busy]; rfl⟩

/-- Settles O6: the word selects no command, and STATUS has its five bits from the next state. -/
theorem reservedWordIsIllegal : Obligations.ReservedWordIsIllegal := by
  intro s w rest hr hi hh hw
  obtain ⟨e, hd⟩ := decode_eq_error_of_reserved hw
  have hstep : step s = .next { s with host := rest, illegal := true, done := true } := by
    rw [step_idle hi hh]
    exact hostAction_write_cmd_of_error Config.hw hr hi hd
  have hidle : s.busy = false := by rw [State.busy, hi]; rfl
  refine ⟨_, hstep, rfl, ?_, fun hstatus => ?_⟩
  · rw [statusWord_eq, statusBits_busy]
    exact hidle
  · obtain ⟨_, _, _, hbounds, hmalformed⟩ := (statusBits_eq_zero _ _ _ _ _).1 hstatus
    show statusBits s.busy true true s.bounds s.malformed = 0x00000006#32
    rw [hidle, hbounds, hmalformed]
    decide

/-- Settles O7: the host's turn while a command waits, by the dropped write of R213. -/
theorem cmdWriteWhileBusyDropped : Obligations.CmdWriteWhileBusyDropped := by
  intro s i w n rest hr hi hw hh
  rw [step_wait hr hi hw hh]
  exact hostAction_write_cmd_of_busy Config.hw hr hi

/-! ## A command in flight -/

/-- R260, R270: command i is in flight with n steps left to wait, outside reset, and the host has only actions pending
that R260 allows. -/
structure Waiting (i : Instr) (n : Nat) (s : State) : Prop where
  reset : s.resetAsserted = false
  inflight : s.inflight = some i
  wait : s.wait = n
  host : ∀ e ∈ s.host, busySafe e

section
variable {s : State} {i : Instr} {n : Nat}

/-- R260: a write to a register the host may access while BUSY leaves the command in flight as it is. -/
theorem Waiting.writeReg (h : Waiting i n s) (p : Params) {r : Reg} (hb : busyAllowed r = true) (v : Word) :
    Waiting i n (writeReg p s r v) := by
  obtain ⟨hr, hi, hw, hs⟩ := h
  cases r with
  | id | bufsz | ctrl | status => exact ⟨hr, hi, hw, hs⟩
  | cmd =>
    rw [writeReg_cmd, writeCmd_of_busy p v hi]
    exact ⟨hr, hi, hw, hs⟩
  | _ => cases hb

/-- R260: an action the host may take while BUSY has a next state and leaves the command in flight as it is. -/
theorem Waiting.hostAction (h : Waiting i n s) (p : Params) {e : HostEvent} (he : busySafe e) :
    ∃ t, hostAction p s e = .next t ∧ Waiting i n t := by
  have ⟨hr, hi, hw, hs⟩ := h
  cases e with
  | poll =>
    have hbusy : s.busy = true := by rw [State.busy, hi]; rfl
    have hsafe : ∀ e ∈ HostEvent.poll :: s.host, busySafe e := List.forall_mem_cons.2 ⟨he, hs⟩
    rw [Machine.hostAction, if_pos hbusy]
    exact ⟨_, hostRead_status p hr, hr, hi, hw, hsafe⟩
  | read bytes off =>
    obtain ⟨rfl, r, hb, rfl⟩ := he
    exact ⟨_, hostRead_reg p hr (.inr hb), hr, hi, hw, hs⟩
  | write bytes off v =>
    obtain ⟨rfl, r, hb, rfl⟩ := he
    exact ⟨_, hostWrite_reg p v hr (.inr hb), h.writeReg p hb v⟩
  | resetAssert | resetRelease => exact he.elim

/-- R212, R270: each step of such a host uses up one step of the wait, also with nothing pending (log 2). -/
theorem Waiting.step (h : Waiting i (n + 1) s) : ∃ t, step s = .next t ∧ Waiting i n t := by
  obtain ⟨hr, hi, hw, hs⟩ := h
  rw [step_of_waiting hr hi hw, hostStep]
  cases hh : s.host with
  | nil => exact ⟨_, rfl, hr, hi, rfl, hh ▸ hs⟩
  | cons e rest =>
    obtain ⟨he, hrest⟩ := List.forall_mem_cons.1 (hh ▸ hs)
    exact Waiting.hostAction (s := { s with host := rest, wait := n }) ⟨hr, hi, rfl, hrest⟩ Config.hw he

/-- R212, R270: after the steps left to wait and one more the command has completed. -/
theorem Waiting.completes (h : Waiting i n s) :
    ∃ t, core.run (n + 1) s = .next t ∧ t.done = true ∧ t.inflight = none := by
  induction n generalizing s with
  | zero =>
    have hstep := (step_of_ready h.reset h.inflight h.wait).trans (exec_eq i s)
    exact ⟨_, run_succ 0 hstep, complete_done _ _, complete_commandRule_inflight i s⟩
  | succ n ih =>
    obtain ⟨t, hstep, ht⟩ := h.step
    rw [run_succ (n + 1) hstep]
    exact ih ht

end

/-- Settles O59, by induction on the steps left to wait. -/
theorem inFlightCommandCompletes : Obligations.InFlightCommandCompletes := fun _ _ hr hi hs =>
  Waiting.completes ⟨hr, hi, rfl, hs⟩

/-! ## Completions -/

/-- Settles O4: the placed state has the command in flight and no step left to wait. -/
theorem stepRunsDecodedCommand : Obligations.StepRunsDecodedCommand := by
  refine ⟨fun _ _ => step_of_ready, fun s w i hd => ⟨withFetchWord_of_ok hd, ?_⟩⟩
  rw [withFetchWord_of_ok hd]
  exact step_of_ready rfl rfl rfl

/-- Settles O8: both ways a rule can end complete the command. -/
theorem everyCommandCompletes : Obligations.EveryCommandCompletes := fun i s =>
  ⟨_, exec_eq i s, complete_done _ _, complete_commandRule_inflight i s⟩

/-- Settles O15: NOP's rule has no effect, so its completion is DONE alone. -/
theorem nopSetsOnlyDone : Obligations.NopSetsOnlyDone := by
  refine ⟨decode_eq_ok_iff.2 (by decide), fun s => ⟨exec_eq .nop s, fun hillegal hbounds hmalformed => ?_⟩⟩
  show statusBits false true s.illegal s.bounds s.malformed = 0x00000002#32
  rw [hillegal, hbounds, hmalformed]
  decide

end Sys2Proof.Machine
end

section
/-! PROOF. The exceptions family (60_exceptions.md): a command raises BOUNDS or flags MALFORMED, never both (R225), and
what moves the level of IRQ (R230). -/

namespace Sys2Proof.Machine

/-! ## BOUNDS and MALFORMED -/

/-- R225: a raised BOUNDS undoes the rule, MALFORMED included, and a rule that ends without it leaves BOUNDS alone. -/
theorem complete_commandRule_bounds_or_malformed (i : Instr) (s : State) :
    (complete s (commandRule i s)).bounds = s.bounds ∨ (complete s (commandRule i s)).malformed = s.malformed := by
  rcases commandRule_cases i s with hraised | ⟨_, _, hcodes⟩ | hclassify | ⟨_, _, hdecode⟩ | ⟨_, hencode⟩
  · exact .inr (by simp [hraised])
  · exact .inl (by simp [hcodes])
  · exact .inl (by simp [hclassify])
  · exact .inl (by simp [hdecode])
  · exact .inl (by simp [hencode])

/-- Settles O11: of two bits that are clear, the one the completion leaves alone stays clear. -/
theorem atMostOneOfBoundsAndMalformed : Obligations.AtMostOneOfBoundsAndMalformed := by
  rintro i s t hbounds hmalformed hexec ⟨hb, hm⟩
  rw [exec_eq] at hexec
  injection hexec with ht
  subst ht
  rcases complete_commandRule_bounds_or_malformed i s with hkept | hkept
  · simp [hkept, hbounds] at hb
  · simp [hkept, hmalformed] at hm

/-! ## IRQ -/

/-- R212, R230: a completion sets DONE and keeps IE. -/
theorem irq_complete_commandRule (i : Instr) (s : State) : irq (complete s (commandRule i s)) = s.ie := by
  rw [irq, complete_done, (commandKeeps_complete i s).ie, Bool.and_true]

/-- R23, R230: a write to CTRL sets IE to its bit 0 and keeps DONE. -/
theorem irq_writeReg_ctrl (p : Params) (s : State) (v : Word) :
    irq (writeReg p s .ctrl v) = (v.getLsbD 0 && s.done) := rfl

/-- R24, R230: a write to STATUS keeps IE, and clears DONE where its bit 1 is 1. -/
theorem irq_writeReg_status (p : Params) (s : State) (v : Word) :
    irq (writeReg p s .status v) = (irq s && !v.getLsbD 1) :=
  (Bool.and_assoc s.ie s.done (!v.getLsbD 1)).symm

/-- R63, R70: an idle block outside reset performs the host's register write in its next step. -/
theorem step_write_reg {s : State} {r : Reg} {v : Word} {rest : List HostEvent} (hr : s.resetAsserted = false)
    (hi : s.inflight = none) (hh : s.host = .write 4 (regOff r) v :: rest) :
    step s = .next (writeReg Config.hw { s with host := rest } r v) :=
  (step_idle hi hh).trans (hostWrite_reg Config.hw v hr (.inl hi))

/-- Settles O57: IRQ after a completion and after the two register writes; 0x08 is CTRL and 0x0C is STATUS (R20). -/
theorem irqRisesAndFalls : Obligations.IrqRisesAndFalls := by
  refine ⟨fun i s t hexec => ?_, fun s v rest hr hi => ⟨fun hctrl => ?_, fun hstatus => ?_⟩⟩
  · rw [exec_eq] at hexec
    injection hexec with ht
    exact ht ▸ irq_complete_commandRule i s
  · exact ⟨_, step_write_reg (r := .ctrl) hr hi hctrl, irq_writeReg_ctrl _ _ v⟩
  · exact ⟨_, step_write_reg (r := .status) hr hi hstatus, irq_writeReg_status _ _ v⟩

end Sys2Proof.Machine
end

section
/-! PROOF. The reset and hazards family (70_reset_and_hazards.md): the accesses that R250 and R260 refuse and those that
go on while BUSY, the way through the reset input, and the state it ends in. -/

namespace Sys2Proof.Machine

/-! ## Refused accesses -/

section
variable {s : State} {n off : Nat}

/-- R250: in reset no access has a meaning, whatever else may be wrong with it (log 16). -/
theorem accessRefusal_inReset (p : Params) (hr : s.resetAsserted = true) :
    accessRefusal p s n off = some .accessInReset := if_pos hr

/-- R260: of the accesses the bus accepts, those at a forbidden place are refused while BUSY. -/
theorem accessRefusal_busy {p : Params} {i : Instr} (hr : s.resetAsserted = false) (hi : s.inflight = some i)
    (ha : busAccepts n off = true) (hp : placeAllowedBusy (placeOf p off) = false) :
    accessRefusal p s n off = some .busyAccess := by
  simp [accessRefusal, hr, ha, hp, State.busy, hi]

end

/-- R250, R260: where the engine does not complete a command, a refused access is the refusal of the step. -/
theorem step_refused {s : State} {n : Nat} {off : BitVec 17} {v : Word} {rest : List HostEvent} {e : Refusal}
    (hturn : s.resetAsserted = true ∨ s.inflight = none ∨ s.wait ≠ 0)
    (hh : s.host = .read n off :: rest ∨ s.host = .write n off v :: rest)
    (he : accessRefusal Config.hw s n off.toNat = some e) : step s = .refused e := by
  have herr (w : Nat) : accessRefusal Config.hw { s with host := rest, wait := w } n off.toNat = some e := he
  rcases hh with hh | hh <;> obtain ⟨w, hstep⟩ := step_host_action hturn hh <;> rw [hstep]
  · simp only [hostAction, hostRead, herr]
  · simp only [hostAction, hostWrite, herr]

/-! ## Accesses while BUSY -/

/-- R213, R260: no register write abandons or replaces the command in flight. -/
theorem writeReg_inflight {s : State} {i : Instr} (p : Params) (r : Reg) (v : Word) (hi : s.inflight = some i) :
    (writeReg p s r v).inflight = some i := by
  cases r with
  | cmd => rw [writeReg_cmd, writeCmd_of_busy p v hi]; exact hi
  | _ => exact hi

/-- Settles O54: the allowed registers by the bus's answer to them, all other places by `accessRefusal_busy`. -/
theorem busyAccessContract : Obligations.BusyAccessContract := by
  intro s i n v rest hr hi hw
  have hwait : s.wait ≠ 0 := by omega
  refine ⟨fun r hmem hh => ?_, fun r hmem hh => step_refused (.inr (.inr hwait)) hh ?_,
    fun b k hb hk hlt hh => step_refused (.inr (.inr hwait)) hh ?_⟩
  · have hallowed := (busyAllowed_iff r).2 hmem
    rcases hh with hh | hh <;> rw [step_wait hr hi hw hh]
    · exact ⟨_, hostRead_reg Config.hw hr (.inr hallowed), hi⟩
    · exact ⟨_, hostWrite_reg Config.hw v hr (.inr hallowed), writeReg_inflight Config.hw r v hi⟩
  · have hforbidden : busyAllowed r = false := Bool.eq_false_iff.2 fun h => hmem ((busyAllowed_iff r).1 h)
    rw [regOff_toNat]
    exact accessRefusal_busy hr hi (busAccepts_offset r) (by rw [placeOf_offset]; exact hforbidden)
  · refine accessRefusal_busy hr hi (busAccepts_bufOff hlt hb hk) ?_
    rw [bufOff_toNat hlt, placeOf_buffer hlt]
    rfl

/-! ## The reset input -/

section
variable {s : State} {rest : List HostEvent}

/-- R250: whatever is in flight is abandoned, with no step left to wait and the registers as they are (log 6). -/
theorem step_resetAssert (hturn : s.resetAsserted = true ∨ s.inflight = none ∨ s.wait ≠ 0)
    (hh : s.host = .resetAssert :: rest) : step s = .next (assertReset { s with host := rest }) := by
  obtain ⟨w, hstep⟩ := step_host_action hturn hh
  exact hstep

/-- R250: the release puts every register at its reset value; the host's part and the counters of draws stay (log 4,
log 6). -/
theorem step_resetRelease (hr : s.resetAsserted = true) (hh : s.host = .resetRelease :: rest) :
    step s = .next { State.reset with gen := s.gen + 1, accepted := s.accepted, host := rest,
                                      busData := s.busData } := by
  obtain ⟨w, hstep⟩ := step_host_action (.inl hr) hh
  rw [hstep, hostAction, releaseReset, if_pos hr]

/-- R250: reset asserted and at once released. -/
theorem run_reset (hturn : s.resetAsserted = true ∨ s.inflight = none ∨ s.wait ≠ 0)
    (hh : s.host = .resetAssert :: .resetRelease :: rest) :
    core.run 2 s = .next { State.reset with gen := s.gen + 1, accepted := s.accepted, host := rest,
                                            busData := s.busData } :=
  (run_succ 1 (step_resetAssert hturn hh)).trans (run_succ 0 (step_resetRelease rfl rfl))

end

/-! ## The reset state -/

/-- R253: every entry of the reset matrix is +0.0. -/
theorem Mat3.get_zero (r c : Fin 3) : Mat3.zero.get r c = 0#32 := by
  revert r c
  decide

/-- R250, R251: what each register reads after the release of reset. -/
theorem readReg_reset (p : Params) (r : Reg) : readReg p State.reset r =
    if r = .id then 0x41544301#32 else if r = .bufsz then BitVec.ofNat 32 p.bufBytes else 0#32 := by
  cases r with
  | inRot r c | outRot r c => exact Mat3.get_zero r c
  | _ => rfl

/-- Settles O58: the two steps of `run_reset`, the refusal of R250, and the registers of `readReg_reset`. -/
theorem resetAbandonsAndClears : Obligations.ResetAbandonsAndClears :=
  ⟨fun _ _ => run_reset, fun _ _ _ _ _ hr hh => step_refused (.inl hr) hh (accessRefusal_inReset Config.hw hr),
    readReg_reset, rfl, rfl⟩

/-- Settles O48: the legal state after a release, with the draws and the host's part of `State.reset`. -/
theorem resetStateIsLegal : Obligations.ResetStateIsLegal := inv_released 0 0 [] none

/-- R111, R125: the reset matrix takes the general branch, where T3 and T4 give a zero for each angle; those of X and
Z are negated, as their sine entries are. -/
theorem eulerXYZ_zero {p : Params} (h3 : TrigT3 p) (h4 : TrigT4 p) : eulerXYZ p Mat3.zero = ⟨NZERO, PZERO, NZERO⟩ := by
  have hatan : p.atan2_32 (neg PZERO) PZERO = NZERO := (h4.zero_pos PZERO (.inl rfl)).2
  have hasin : p.asin32 PZERO = PZERO := h3.1
  rw [eulerXYZ_of_general p (.inl (by decide))]
  simp only [Mat3.zero, hatan, hasin]

/-- Settles O30: the identity test comes first (R119), and both zeros pass it. -/
theorem zeroMatrixIsIdentity : Obligations.ZeroMatrixIsIdentity := by
  intro p h3 h4
  have heuler : eulerXYZ p State.reset.inRot = ⟨NZERO, PZERO, NZERO⟩ := eulerXYZ_zero h3 h4
  have hid : isIdentity ⟨NZERO, PZERO, NZERO⟩ = true := by
    simp only [isIdentity, Bool.and_eq_true, small_iff]
    decide
  rw [classify_of_identity p _ (heuler ▸ hid), heuler]

end Sys2Proof.Machine
end
